-- ==== Sys2Proof/Word.lean ====
section
/-! DEFINITION. The words of the machine: bit vectors of the widths spec rule R6 fixes. -/

namespace Sys2Proof

/-- A byte of data space (R90). -/
abbrev Byte := BitVec 8

/-- A 16-bit data word, and a 16-bit data-space address (R6, R90). -/
abbrev Word := BitVec 16

/-- A 23-bit program address (R31); bit 0 is always 0. -/
abbrev PAddr := BitVec 23

/-- A 24-bit instruction word (R130). -/
abbrev PWord := BitVec 24

/-- A 40-bit accumulator (R46). -/
abbrev Acc40 := BitVec 40

/-- The number of a working register, W0 to W15 (R21). -/
abbrev WReg := BitVec 4

end Sys2Proof
end

