-- ==== Sys2Proof/Config.lean ====
section
/-! DEFINITION. What an implementation fixes, and the values the spec leaves free.

A `draw(S)` of the spec (R9) is a FREE VALUE: an opaque constant below, applied to the counter
`State.draws`, which every draw advances (log entry 14). Nothing in Lean can evaluate one. -/

namespace Sys2Proof.Config

/-- A free 16-bit word (R9 `draw`, log entry 14). DESIGN CHOICE of form; the value is never chosen. -/
opaque freeWord : Nat → BitVec 16

/-- A free bit (R9 `draw`, log entry 14). -/
opaque freeBit : Nat → Bool

/-- A free natural number, used to pick a member of a finite set (R9 `draw`, log entry 14). -/
opaque freeNat : Nat → Nat

/-- The first address of data RAM (R91, R432). -/
def ramBase : Nat := 0x0800

/-- How a range of special function registers behaves (`SFR(addr)` of R7, log entry 49). -/
inductive SfrKind
  /-- storage: a read gives what was written last -/
  | plain
  /-- storage that ignores writes -/
  | readOnly
  /-- every read gives a free value, and a write changes nothing the CPU holds: whatever a
  peripheral register may answer is among these reads -/
  | free
deriving DecidableEq, Repr

/-- The special function registers from `first` to `last`, all of one kind. -/
structure SfrRange where
  first : Word
  last : Word
  kind : SfrKind
deriving DecidableEq, Repr

/-- The parameters R7 leaves to the device, as plain data. A machine state carries them
(`State.dev`) and no step changes them, so a claim about every state is a claim about every
device (log entry 5). `SFR(addr)` is the list `sfr`, with the places of the interrupt registers;
an address in none of them takes the spec's default, to refuse (R96). `PROG_IMPL` is the set of
program addresses `State.prog` lists (log entry 4). -/
structure Device where
  /-- `RAM_END`: the last implemented data RAM address. -/
  ramEnd : Word
  /-- A device-specific implemented range at or above 0x8000, seen while PSV = 0 (R96 case 5). -/
  upperRam : Option (Word × Word)
  /-- `XY_BOUNDARY`: the first address of Y data memory. -/
  yFirst : Word
  /-- `XY_BOUNDARY`: the last address of Y data memory. -/
  yLast : Word
  /-- `SPLIM_SLACK`: an address above SPLIM by more than this traps (R431). -/
  splimSlack : Nat
  /-- `SFR(addr)`: what lies in 0x0080 to 0x07FF; where two ranges overlap the first holds. -/
  sfr : List SfrRange
  /-- `INTCON1_ADDR` (R7, R70): where NSTDIS, OVATE, OVBTE and COVTE are seen as data. -/
  intcon1 : Option Word
  /-- The addresses of the IECx and IPCx registers, first and last of each range (R70, R381), plain
  storage for the CPU. The source gives none of them (N9): that any list of ranges may hold them, and
  nothing else, is a DESIGN CHOICE (log entry 61). -/
  irqRegs : List (Word × Word)
  /-- `Vector(StackError)` (R422). -/
  stackVector : PAddr
  /-- `Level(StackError)` less 8: a trap's level is above 7 (R422). -/
  stackLevel : BitVec 3
  /-- `Vector(ArithmeticError)` (R422). -/
  arithVector : PAddr
  /-- `Level(ArithmeticError)` less 8 (R422). -/
  arithLevel : BitVec 3
deriving DecidableEq, Repr

/-- The device of `State.reset`. DESIGN CHOICE (log entries 5 and 6): RAM 0x0800 to 0x27FF with Y
memory from 0x0A00 (which the spec's vectors V42.3g and S6 need), nothing implemented above
0x8000, no special function register given, both vectors 0x000000. PRESUMED (log entry 6): trap levels 12 and 11, the family's
(`93_implementation_defined.md` G3). -/
def defaultDevice : Device where
  ramEnd := 0x27FF#16
  upperRam := none
  yFirst := 0x0A00#16
  yLast := 0x27FF#16
  splimSlack := 2
  sfr := []
  intcon1 := none
  irqRegs := []
  stackVector := 0#23
  stackLevel := 4#3
  arithVector := 0#23
  arithLevel := 3#3

end Sys2Proof.Config
end

