-- ==== Sys2Proof/Syntax.lean ====
section
/-! DEFINITION. The instructions: one constructor per row of `spec/opcode_table.json`, in the
table's order, each carrying the fields of its row (R145, R146) as typed operands. -/

namespace Sys2Proof

/-- The size of an access or operation: word mode or byte mode (R94, R201; encoding bit `B`). -/
inductive Size
  | word
  | byte
deriving DecidableEq, Repr

/-- Addressing modes of the 3-bit fields `p` and `q` (R140, R145). -/
inductive Mode
  /-- `Wn` -/
  | direct
  /-- `[Wn]` -/
  | ind
  /-- `[Wn--]` -/
  | postDec
  /-- `[Wn++]` -/
  | postInc
  /-- `[--Wn]` -/
  | preDec
  /-- `[++Wn]` -/
  | preInc
deriving DecidableEq, Repr

/-- Addressing modes of the 3-bit fields `g` and `h` (R145): those of `p`, and `[Wn+Wb]`. -/
inductive MovMode
  | plain (m : Mode)
  /-- `[Wn+Wb]`, the register offset form (R140) -/
  | offset
deriving DecidableEq, Repr

/-- Destination of a file register instruction (R145, field `D`). -/
inductive FileDest
  | wreg
  | file
deriving DecidableEq, Repr

/-- The two accumulators (R46; field `A`). -/
inductive AccId
  | accA
  | accB
deriving DecidableEq, Repr

/-- The multiplier's operand registers W4 to W7 (R28; two-bit fields `mm`, `xx`, `yy`). -/
inductive DspReg
  | w4
  | w5
  | w6
  | w7
deriving DecidableEq, Repr

/-- The operand pairs of the two-register multiplies (R145, field `mmm`). -/
inductive MulPair
  | w4w5
  | w4w6
  | w4w7
  | w5w6
  | w5w7
  | w6w7
deriving DecidableEq, Repr

/-- The post-modification of a prefetch pointer (R145, R265). -/
inductive PreStep
  | zero
  | plus2
  | plus4
  | plus6
  | minus6
  | minus4
  | minus2
deriving DecidableEq, Repr

/-- The pointer of a prefetch: the lower (W8, or W10 for Y) or the upper (W9, or W11 for Y). -/
inductive PrePtr
  | lower
  | upper
deriving DecidableEq, Repr

/-- A prefetch access (R145, fields `iiii` and `jjjj`, less the value 0100 for no prefetch). -/
inductive PreAccess
  | modify (p : PrePtr) (k : PreStep)
  /-- `[W9+W12]`, or `[W11+W12]` for Y -/
  | offset
deriving DecidableEq, Repr

/-- The accumulator write back operand (R145 field `aa`, R270); 11 belongs to other rows. -/
inductive WriteBack
  | w13
  | w13Inc
  | none
deriving DecidableEq, Repr

/-- One constructor per row of `spec/opcode_table.json`. -/
inductive Instr
  | movWsWd (sz : Size) (wb : WReg) (dm : MovMode) (wd : WReg) (sm : MovMode) (ws : WReg)
  | movFWnd (f : BitVec 15) (wd : WReg)
  | movWregF (sz : Size) (f : BitVec 13)
  | movLit16Wnd (lit : Word) (wd : WReg)
  | movdLoad (wd : BitVec 3) (sm : Mode) (ws : WReg)
  | movdStore (dm : Mode) (wd : WReg) (ws : BitVec 3)
  | pushS
  | popS
  | lnk (lit : BitVec 13)
  | ulnk
  | se (wd : WReg) (sm : Mode) (ws : WReg)
  | ze (wd : WReg) (sm : Mode) (ws : WReg)
  | addWbWsWd (sz : Size) (wb : WReg) (dm : Mode) (wd : WReg) (sm : Mode) (ws : WReg)
  | addF (sz : Size) (d : FileDest) (f : BitVec 13)
  | bset (bit : BitVec 4) (f : BitVec 12)
  | btsc (bit : BitVec 4) (f : BitVec 12)
  | asrLit (wb wd : WReg) (lit : BitVec 4)
  | asrReg (wb wd ws : WReg)
  | lsrLit (wb wd : WReg) (lit : BitVec 4)
  | lsrReg (wb wd ws : WReg)
  | slLit (wb wd : WReg) (lit : BitVec 4)
  | slReg (wb wd ws : WReg)
  | mulUU (wb wd : WReg) (sm : Mode) (ws : WReg)
  | mulUS (wb wd : WReg) (sm : Mode) (ws : WReg)
  | mulSU (wb wd : WReg) (sm : Mode) (ws : WReg)
  | mulSS (wb wd : WReg) (sm : Mode) (ws : WReg)
  | mulF (sz : Size) (f : BitVec 13)
  | mac (m : MulPair) (a : AccId) (xd yd : DspReg) (x y : Option PreAccess) (awb : WriteBack)
  | macSquare (m : DspReg) (a : AccId) (xd yd : DspReg) (x y : Option PreAccess)
  | msc (m : MulPair) (a : AccId) (xd yd : DspReg) (x y : Option PreAccess) (awb : WriteBack)
  | mpy (m : MulPair) (a : AccId) (xd yd : DspReg) (x y : Option PreAccess)
  | mpySquare (m : DspReg) (a : AccId) (xd yd : DspReg) (x y : Option PreAccess)
  | mpyN (m : MulPair) (a : AccId) (xd yd : DspReg) (x y : Option PreAccess)
  | ed (m : DspReg) (a : AccId) (xd : DspReg) (x y : PreAccess)
  | edac (m : DspReg) (a : AccId) (xd : DspReg) (x y : PreAccess)
  | addAcc (a : AccId)
  | addWsAcc (a : AccId) (wb : WReg) (sh : BitVec 4) (sm : MovMode) (ws : WReg)
  | lac (a : AccId) (wb : WReg) (sh : BitVec 4) (sm : MovMode) (ws : WReg)
  | sac (a : AccId) (wb : WReg) (sh : BitVec 4) (dm : MovMode) (wd : WReg)
  | sacR (a : AccId) (wb : WReg) (sh : BitVec 4) (dm : MovMode) (wd : WReg)
  | sftacLit (a : AccId) (lit : BitVec 6)
  | sftacReg (a : AccId) (wb : WReg)
  | divSW (t v wn : WReg)
  | divSD (t v wn : WReg)
  | divUW (t v wn : WReg)
  | divUD (t v wn : WReg)
  | divF (wm wn : WReg)
  | call (n1 : BitVec 15) (n2 : BitVec 7)
  | rcall (n : BitVec 16)
  | goto (n1 : BitVec 15) (n2 : BitVec 7)
  | bra (n : BitVec 16)
  | ret
  | retlw (sz : Size) (lit : BitVec 10) (wd : WReg)
  | retfie
  | nop
  | repeatLit (lit : BitVec 14)
  | repeatReg (wn : WReg)
  | doLit (lit : BitVec 14) (n : BitVec 16)
  | doReg (wn : WReg) (n : BitVec 16)
  | disi (lit : BitVec 14)
  | pwrsv (lit : BitVec 1)
  | reset
  | tblrdl (sz : Size) (dm : Mode) (wd : WReg) (sm : Mode) (ws : WReg)
  | tblrdh (sz : Size) (dm : Mode) (wd : WReg) (sm : Mode) (ws : WReg)
  | tblwtl (sz : Size) (dm : Mode) (wd : WReg) (sm : Mode) (ws : WReg)
  | tblwth (sz : Size) (dm : Mode) (wd : WReg) (sm : Mode) (ws : WReg)
deriving DecidableEq, Repr

end Sys2Proof
end

