-- ==== Sys2Proof/WellFormed.lean ====
section
/-! DEFINITION. Which instructions the spec's operand rules admit. Each check is a static condition on
the operands, with the rule that states it. A meaning refuses, under a name of its own, the forms
these checks exclude, all but one: a register named for an absent prefetch (R145) is not looked at
(log entry 52). -/

namespace Sys2Proof

/-- An even register number, as register pairs need (R170, R171, R229, R302). -/
def WReg.isEven (n : WReg) : Bool := n.toNat % 2 == 0

/-- The register offset form `[Wn+Wb]` is out of scope (R5(a), G2). -/
def MovMode.inScope : MovMode → Bool
  | .plain _ => true
  | .offset => false

/-- Prefetch operands: with no prefetch the destination field is written 00 (R145), and two
prefetches do not name one destination (R266). -/
def prefetchesWf (xd yd : DspReg) (x y : Option PreAccess) : Bool :=
  (x.isSome || xd == .w4) && (y.isSome || yd == .w4) && !(x.isSome && y.isSome && xd == yd)

/-- Divide operands: the divisor is not W0 or W1 (R301). -/
def divisorWf (wn : WReg) : Bool := wn != 0#4 && wn != 1#4

/-- A 32-bit dividend is an even register pair, `t` naming the upper register (R145, R301). A word whose
`t` does not fit is refused (log entry 53). -/
def dividendPairWf (t v : WReg) : Bool := v.isEven && t == v + 1#4

/-- Loop lengths -2, -1 and 0 are not usable (R382). -/
def doLengthWf (n : BitVec 16) : Bool := n != 0#16 && n != 0xFFFF#16 && n != 0xFFFE#16

/-- The operand rules of the spec, instruction by instruction. -/
def Instr.wf : Instr → Bool
  | .movWsWd _ _ dm _ sm _ => dm.inScope && sm.inScope
  | .movFWnd _ _ => true
  | .movWregF _ _ => true
  | .movLit16Wnd _ _ => true
  | .movdLoad _ sm ws => sm != .direct || ws.isEven
  | .movdStore dm wd _ => dm != .direct || wd.isEven
  | .pushS => true
  | .popS => true
  | .lnk _ => true
  | .ulnk => true
  | .se _ _ _ => true
  | .ze _ _ _ => true
  | .addWbWsWd _ _ _ _ _ _ => true
  | .addF _ _ _ => true
  | .bset _ _ => true
  | .btsc _ _ => true
  | .asrLit _ _ _ => true
  | .asrReg _ _ _ => true
  | .lsrLit _ _ _ => true
  | .lsrReg _ _ _ => true
  | .slLit _ _ _ => true
  | .slReg _ _ _ => true
  | .mulUU _ wd _ _ => wd.isEven
  | .mulUS _ wd _ _ => wd.isEven
  | .mulSU _ wd _ _ => wd.isEven
  | .mulSS _ wd _ _ => wd.isEven
  | .mulF _ _ => true
  | .mac _ _ xd yd x y _ => prefetchesWf xd yd x y
  | .macSquare _ _ xd yd x y => prefetchesWf xd yd x y
  | .msc _ _ xd yd x y _ => prefetchesWf xd yd x y
  | .mpy _ _ xd yd x y => prefetchesWf xd yd x y
  | .mpySquare _ _ xd yd x y => prefetchesWf xd yd x y
  | .mpyN _ _ xd yd x y => prefetchesWf xd yd x y
  | .ed _ _ _ _ _ => true
  | .edac _ _ _ _ _ => true
  | .addAcc _ => true
  | .addWsAcc _ _ _ sm _ => sm.inScope
  | .lac _ _ _ sm _ => sm.inScope
  | .sac _ _ _ dm _ => dm.inScope
  | .sacR _ _ _ dm _ => dm.inScope
  | .sftacLit _ _ => true
  | .sftacReg _ _ => true
  | .divSW t _ wn => t == 0#4 && divisorWf wn
  | .divSD t v wn => dividendPairWf t v && divisorWf wn
  | .divUW t _ wn => t == 0#4 && divisorWf wn
  | .divUD t v wn => dividendPairWf t v && divisorWf wn
  | .divF _ wn => divisorWf wn
  | .call _ _ => true
  | .rcall _ => true
  | .goto _ _ => true
  | .bra _ => true
  | .ret => true
  | .retlw _ _ wd => wd != 15#4
  | .retfie => true
  | .nop => true
  | .repeatLit _ => true
  | .repeatReg _ => true
  | .doLit _ n => doLengthWf n
  | .doReg _ n => doLengthWf n
  | .disi _ => true
  | .pwrsv _ => true
  | .reset => true
  | .tblrdl _ _ _ _ _ => true
  | .tblrdh _ _ _ _ _ => true
  | .tblwtl _ _ _ _ _ => true
  | .tblwth _ _ _ _ _ => true

end Sys2Proof
end

