-- ==== Sys2Proof/Decode.lean ====
section
/-! DEFINITION. The decoder, total on any words, and after it the encoder. Both follow the encoding
strings of R146 with the fields of R145 and the immediates of R147, all of which the spec marks as
general knowledge: PRESUMED (log entry 11). The decoder walks the opcode map of R149: the top four
bits, then the bits each group fixes. -/

namespace Sys2Proof

/-- Why a word decodes to no instruction (R148: the model refuses any word that is not a row of the
opcode table). -/
inductive DecodeError
  /-- no row of the opcode table matches the first word -/
  | noSuchInstruction
  /-- a mode field holds 110 or 111 where the row's field `p` or `q` has no such mode (R145) -/
  | reservedMode
  /-- `mmm` is 011 or 111 (R146) -/
  | reservedMultiplierPair
  /-- an ED or EDAC word with no X or Y prefetch: its operand form has both (R277) -/
  | missingPrefetch
  /-- the second word of a two-word instruction is not there -/
  | secondWordMissing
  /-- the second word does not have its row's fixed bits (R146) -/
  | badSecondWord
deriving DecidableEq, Repr

/-- The `n` bits of `w` from bit `lo` up. -/
def field (w : PWord) (lo n : Nat) : BitVec n := w.extractLsb' lo n

/-- `x` placed with its bit 0 at bit `lo`. -/
def place {n : Nat} (lo : Nat) (x : BitVec n) : PWord := x.setWidth 24 <<< lo

/-! ## Field values -/

def Size.code : Size → BitVec 1
  | .word => 0#1
  | .byte => 1#1

def sizeOf (b : BitVec 1) : Size := if b = 0#1 then .word else .byte

def Mode.code : Mode → BitVec 3
  | .direct => 0#3
  | .ind => 1#3
  | .postDec => 2#3
  | .postInc => 3#3
  | .preDec => 4#3
  | .preInc => 5#3

def modeOf (b : BitVec 3) : Except DecodeError Mode :=
  if b = 0#3 then .ok .direct
  else if b = 1#3 then .ok .ind
  else if b = 2#3 then .ok .postDec
  else if b = 3#3 then .ok .postInc
  else if b = 4#3 then .ok .preDec
  else if b = 5#3 then .ok .preInc
  else .error .reservedMode

def MovMode.code : MovMode → BitVec 3
  | .plain m => m.code
  | .offset => 6#3

/-- 11x is the register offset form (R145). -/
def movModeOf (b : BitVec 3) : MovMode :=
  match modeOf b with
  | .ok m => .plain m
  | .error _ => .offset

def FileDest.code : FileDest → BitVec 1
  | .wreg => 0#1
  | .file => 1#1

def fileDestOf (b : BitVec 1) : FileDest := if b = 0#1 then .wreg else .file

def AccId.code : AccId → BitVec 1
  | .accA => 0#1
  | .accB => 1#1

def accOf (b : BitVec 1) : AccId := if b = 0#1 then .accA else .accB

def DspReg.code : DspReg → BitVec 2
  | .w4 => 0#2
  | .w5 => 1#2
  | .w6 => 2#2
  | .w7 => 3#2

def dspRegOf (b : BitVec 2) : DspReg :=
  if b = 0#2 then .w4 else if b = 1#2 then .w5 else if b = 2#2 then .w6 else .w7

def MulPair.code : MulPair → BitVec 3
  | .w4w5 => 0#3
  | .w4w6 => 1#3
  | .w4w7 => 2#3
  | .w5w6 => 4#3
  | .w5w7 => 5#3
  | .w6w7 => 6#3

def mulPairOf (b : BitVec 3) : Except DecodeError MulPair :=
  if b = 0#3 then .ok .w4w5
  else if b = 1#3 then .ok .w4w6
  else if b = 2#3 then .ok .w4w7
  else if b = 4#3 then .ok .w5w6
  else if b = 5#3 then .ok .w5w7
  else if b = 6#3 then .ok .w6w7
  else .error .reservedMultiplierPair

def PreAccess.code : PreAccess → BitVec 4
  | .modify .lower .zero => 0#4
  | .modify .lower .plus2 => 1#4
  | .modify .lower .plus4 => 2#4
  | .modify .lower .plus6 => 3#4
  | .modify .lower .minus6 => 5#4
  | .modify .lower .minus4 => 6#4
  | .modify .lower .minus2 => 7#4
  | .modify .upper .zero => 8#4
  | .modify .upper .plus2 => 9#4
  | .modify .upper .plus4 => 10#4
  | .modify .upper .plus6 => 11#4
  | .offset => 12#4
  | .modify .upper .minus6 => 13#4
  | .modify .upper .minus4 => 14#4
  | .modify .upper .minus2 => 15#4

def prefetchCode : Option PreAccess → BitVec 4
  | none => 4#4
  | some p => p.code

/-- Fields `iiii` and `jjjj` (R145); 0100 is no prefetch. -/
def prefetchOf (b : BitVec 4) : Option PreAccess :=
  if b = 0#4 then some (.modify .lower .zero)
  else if b = 1#4 then some (.modify .lower .plus2)
  else if b = 2#4 then some (.modify .lower .plus4)
  else if b = 3#4 then some (.modify .lower .plus6)
  else if b = 4#4 then none
  else if b = 5#4 then some (.modify .lower .minus6)
  else if b = 6#4 then some (.modify .lower .minus4)
  else if b = 7#4 then some (.modify .lower .minus2)
  else if b = 8#4 then some (.modify .upper .zero)
  else if b = 9#4 then some (.modify .upper .plus2)
  else if b = 10#4 then some (.modify .upper .plus4)
  else if b = 11#4 then some (.modify .upper .plus6)
  else if b = 12#4 then some .offset
  else if b = 13#4 then some (.modify .upper .minus6)
  else if b = 14#4 then some (.modify .upper .minus4)
  else some (.modify .upper .minus2)

def requirePrefetch : Option PreAccess → Except DecodeError PreAccess
  | some p => .ok p
  | none => .error .missingPrefetch

def WriteBack.code : WriteBack → BitVec 2
  | .w13 => 0#2
  | .w13Inc => 1#2
  | .none => 2#2

/-- Field `aa` when it is not 11 (R145). -/
def writeBackOf (b : BitVec 2) : WriteBack :=
  if b = 0#2 then .w13 else if b = 1#2 then .w13Inc else .none

/-! ## The decoder, group by group (R149) -/

/-- The second word of CALL and GOTO: `0000 0000 0000 0000 0nnn nnnn` (R146). -/
def targetWord (w2 : Option PWord) : Except DecodeError (BitVec 7) :=
  match w2 with
  | none => .error .secondWordMissing
  | some v => if field v 7 17 = 0#17 then .ok (field v 0 7) else .error .badSecondWord

/-- The second word of DO: `0000 0000 nnnn nnnn nnnn nnnn` (R146). -/
def offsetWord (w2 : Option PWord) : Except DecodeError (BitVec 16) :=
  match w2 with
  | none => .error .secondWordMissing
  | some v => if field v 16 8 = 0#8 then .ok (field v 0 16) else .error .badSecondWord

/-- `0000`: control flow and loops. -/
def decode0 (w : PWord) (w2 : Option PWord) : Except DecodeError Instr :=
  let op := field w 16 4
  if op = 0#4 then .ok .nop
  else if op = 2#4 then
    if field w 0 1 = 0#1 then do return .call (field w 1 15) (← targetWord w2)
    else .error .noSuchInstruction
  else if op = 4#4 then
    if field w 0 1 = 0#1 then do return .goto (field w 1 15) (← targetWord w2)
    else .error .noSuchInstruction
  else if op = 5#4 then
    if field w 15 1 = 0#1 then .ok (.retlw (sizeOf (field w 14 1)) (field w 4 10) (field w 0 4))
    else .error .noSuchInstruction
  else if op = 6#4 then
    if field w 0 16 = 0#16 then .ok .ret
    else if field w 0 16 = 0x4000#16 then .ok .retfie
    else .error .noSuchInstruction
  else if op = 7#4 then .ok (.rcall (field w 0 16))
  else if op = 8#4 then
    if field w 14 2 = 0#2 then do return .doLit (field w 0 14) (← offsetWord w2)
    else if field w 4 12 = 0x800#12 then do return .doReg (field w 0 4) (← offsetWord w2)
    else .error .noSuchInstruction
  else if op = 9#4 then
    if field w 14 2 = 0#2 then .ok (.repeatLit (field w 0 14))
    else if field w 4 12 = 0x800#12 then .ok (.repeatReg (field w 0 4))
    else .error .noSuchInstruction
  else .error .noSuchInstruction

/-- The operands of a MUL row, given the constructor. -/
def decodeMul (mk : WReg → WReg → Mode → WReg → Instr) (w : PWord) : Except DecodeError Instr := do
  return mk (field w 11 4) (field w 7 4) (← modeOf (field w 4 3)) (field w 0 4)

/-- The operands of a table row, given the constructor. -/
def decodeTable (mk : Size → Mode → WReg → Mode → WReg → Instr) (w : PWord) :
    Except DecodeError Instr := do
  return mk (sizeOf (field w 14 1)) (← modeOf (field w 11 3)) (field w 7 4)
    (← modeOf (field w 4 3)) (field w 0 4)

/-- `1011`: file register, multiply, table and MOV.D rows. -/
def decodeB (w : PWord) : Except DecodeError Instr :=
  let op := field w 16 4
  if op = 4#4 then
    if field w 15 1 = 0#1 then
      .ok (.addF (sizeOf (field w 14 1)) (fileDestOf (field w 13 1)) (field w 0 13))
    else .error .noSuchInstruction
  else if op = 7#4 then
    if field w 15 1 = 1#1 ∧ field w 13 1 = 1#1 then
      .ok (.movWregF (sizeOf (field w 14 1)) (field w 0 13))
    else .error .noSuchInstruction
  else if op = 8#4 then
    if field w 15 1 = 0#1 then decodeMul .mulUU w else decodeMul .mulUS w
  else if op = 9#4 then
    if field w 15 1 = 0#1 then decodeMul .mulSU w else decodeMul .mulSS w
  else if op = 10#4 then
    if field w 15 1 = 0#1 then decodeTable .tblrdl w else decodeTable .tblrdh w
  else if op = 11#4 then
    if field w 15 1 = 0#1 then decodeTable .tblwtl w else decodeTable .tblwth w
  else if op = 12#4 then
    if field w 15 1 = 0#1 ∧ field w 13 1 = 0#1 then
      .ok (.mulF (sizeOf (field w 14 1)) (field w 0 13))
    else .error .noSuchInstruction
  else if op = 14#4 then
    if field w 11 5 = 0#5 ∧ field w 7 1 = 0#1 then do
      return .movdLoad (field w 8 3) (← modeOf (field w 4 3)) (field w 0 4)
    else if field w 14 2 = 2#2 ∧ field w 4 3 = 0#3 ∧ field w 0 1 = 0#1 then do
      return .movdStore (← modeOf (field w 11 3)) (field w 7 4) (field w 1 3)
    else .error .noSuchInstruction
  else .error .noSuchInstruction

/-- `1100`: the DSP rows. With bit 19 clear, the two-register multiplies, told apart by bit 14 and
`aa` (R146); with it set, the accumulator rows. -/
def decodeC (w : PWord) : Except DecodeError Instr :=
  if field w 19 1 = 0#1 then do
    let m ← mulPairOf (field w 16 3)
    let a := accOf (field w 15 1)
    let xd := dspRegOf (field w 12 2)
    let yd := dspRegOf (field w 10 2)
    let x := prefetchOf (field w 6 4)
    let y := prefetchOf (field w 2 4)
    if field w 0 2 = 3#2 then
      if field w 14 1 = 0#1 then return .mpy m a xd yd x y else return .mpyN m a xd yd x y
    else
      if field w 14 1 = 0#1 then return .mac m a xd yd x y (writeBackOf (field w 0 2))
      else return .msc m a xd yd x y (writeBackOf (field w 0 2))
  else
    let op := field w 16 3
    let a := accOf (field w 15 1)
    if op = 0#3 then
      if field w 6 9 = 1#9 then .ok (.sftacLit a (field w 0 6))
      else if field w 4 11 = 0#11 then .ok (.sftacReg a (field w 0 4))
      else .error .noSuchInstruction
    else if op = 1#3 then
      .ok (.addWsAcc a (field w 11 4) (field w 7 4) (movModeOf (field w 4 3)) (field w 0 4))
    else if op = 2#3 then
      .ok (.lac a (field w 11 4) (field w 7 4) (movModeOf (field w 4 3)) (field w 0 4))
    else if op = 3#3 then
      if field w 0 15 = 0#15 then .ok (.addAcc a) else .error .noSuchInstruction
    else if op = 4#3 then
      .ok (.sac a (field w 11 4) (field w 7 4) (movModeOf (field w 4 3)) (field w 0 4))
    else if op = 5#3 then
      .ok (.sacR a (field w 11 4) (field w 7 4) (movModeOf (field w 4 3)) (field w 0 4))
    else .error .noSuchInstruction

/-- The operands of a multi-bit shift row: bits 6:4 are 100 for a literal, 000 for a register. -/
def decodeShift (lit : WReg → WReg → BitVec 4 → Instr) (reg : WReg → WReg → WReg → Instr)
    (w : PWord) : Except DecodeError Instr :=
  if field w 4 3 = 4#3 then .ok (lit (field w 11 4) (field w 7 4) (field w 0 4))
  else if field w 4 3 = 0#3 then .ok (reg (field w 11 4) (field w 7 4) (field w 0 4))
  else .error .noSuchInstruction

/-- The operands of a divide row: bits 6:4 are 000 for a 16-bit dividend, 100 for a 32-bit one. -/
def decodeDivide (single double : WReg → WReg → WReg → Instr) (w : PWord) :
    Except DecodeError Instr :=
  if field w 4 3 = 0#3 then .ok (single (field w 11 4) (field w 7 4) (field w 0 4))
  else if field w 4 3 = 4#3 then .ok (double (field w 11 4) (field w 7 4) (field w 0 4))
  else .error .noSuchInstruction

/-- `1101`: shifts and divides. -/
def decodeD (w : PWord) : Except DecodeError Instr :=
  let op := field w 16 4
  if op = 8#4 then
    if field w 15 1 = 0#1 then decodeDivide .divSW .divSD w else decodeDivide .divUW .divUD w
  else if op = 9#4 then
    if field w 15 1 = 0#1 ∧ field w 4 7 = 0#7 then .ok (.divF (field w 11 4) (field w 0 4))
    else .error .noSuchInstruction
  else if op = 13#4 then
    if field w 15 1 = 0#1 then decodeShift .slLit .slReg w else .error .noSuchInstruction
  else if op = 14#4 then
    if field w 15 1 = 0#1 then decodeShift .lsrLit .lsrReg w else decodeShift .asrLit .asrReg w
  else .error .noSuchInstruction

/-- `1111 00`: the square multiplies and the Euclidean distance rows. -/
def decodeSquare (w : PWord) : Except DecodeError Instr :=
  let m := dspRegOf (field w 16 2)
  let a := accOf (field w 15 1)
  let xd := dspRegOf (field w 12 2)
  let yd := dspRegOf (field w 10 2)
  let x := prefetchOf (field w 6 4)
  let y := prefetchOf (field w 2 4)
  if field w 14 1 = 0#1 then
    if field w 0 2 = 0#2 then .ok (.macSquare m a xd yd x y)
    else if field w 0 2 = 1#2 then .ok (.mpySquare m a xd yd x y)
    else .error .noSuchInstruction
  else if field w 10 2 = 0#2 then
    if field w 0 2 = 3#2 then do return .ed m a xd (← requirePrefetch x) (← requirePrefetch y)
    else if field w 0 2 = 2#2 then do
      return .edac m a xd (← requirePrefetch x) (← requirePrefetch y)
    else .error .noSuchInstruction
  else .error .noSuchInstruction

/-- `1111`: square multiplies, LNK and ULNK, SE and ZE, DISI, and the `1111 1110` group. -/
def decodeF (w : PWord) : Except DecodeError Instr :=
  let op := field w 16 4
  if field w 18 2 = 0#2 then decodeSquare w
  else if op = 10#4 then
    if field w 14 2 = 0#2 then
      if field w 0 1 = 0#1 then .ok (.lnk (field w 1 13)) else .error .noSuchInstruction
    else if field w 0 16 = 0x8000#16 then .ok .ulnk
    else .error .noSuchInstruction
  else if op = 11#4 then
    if field w 11 5 = 0#5 then do
      return .se (field w 7 4) (← modeOf (field w 4 3)) (field w 0 4)
    else if field w 11 5 = 16#5 then do
      return .ze (field w 7 4) (← modeOf (field w 4 3)) (field w 0 4)
    else .error .noSuchInstruction
  else if op = 12#4 then
    if field w 14 2 = 0#2 then .ok (.disi (field w 0 14)) else .error .noSuchInstruction
  else if op = 14#4 then
    if field w 0 16 = 0x0000#16 then .ok .reset
    else if field w 1 15 = 0x2000#15 then .ok (.pwrsv (field w 0 1))
    else if field w 0 16 = 0x8000#16 then .ok .popS
    else if field w 0 16 = 0xA000#16 then .ok .pushS
    else .error .noSuchInstruction
  else .error .noSuchInstruction

/-- The instruction that the word `w` begins; `w2` is the word after it, where there is one.
Total: a word that no row of the opcode table matches is rejected by name (R148). -/
def decode (w : PWord) (w2 : Option PWord) : Except DecodeError Instr :=
  let g := field w 20 4
  if g = 0#4 then decode0 w w2
  else if g = 2#4 then .ok (.movLit16Wnd (field w 4 16) (field w 0 4))
  else if g = 3#4 then
    if field w 16 4 = 7#4 then .ok (.bra (field w 0 16)) else .error .noSuchInstruction
  else if g = 4#4 then
    if field w 19 1 = 0#1 then do
      return .addWbWsWd (sizeOf (field w 14 1)) (field w 15 4) (← modeOf (field w 11 3))
        (field w 7 4) (← modeOf (field w 4 3)) (field w 0 4)
    else .error .noSuchInstruction
  else if g = 7#4 then
    if field w 19 1 = 1#1 then
      .ok (.movWsWd (sizeOf (field w 14 1)) (field w 15 4) (movModeOf (field w 11 3))
        (field w 7 4) (movModeOf (field w 4 3)) (field w 0 4))
    else .error .noSuchInstruction
  else if g = 8#4 then
    if field w 19 1 = 0#1 then .ok (.movFWnd (field w 4 15) (field w 0 4))
    else .error .noSuchInstruction
  else if g = 10#4 then
    if field w 16 4 = 8#4 then
      .ok (.bset (field w 0 1 ++ field w 13 3) (field w 1 12))
    else if field w 16 4 = 15#4 then
      .ok (.btsc (field w 0 1 ++ field w 13 3) (field w 1 12))
    else .error .noSuchInstruction
  else if g = 11#4 then decodeB w
  else if g = 12#4 then decodeC w
  else if g = 13#4 then decodeD w
  else if g = 15#4 then decodeF w
  else .error .noSuchInstruction

/-- The number of instruction words (R132): DO, CALL and GOTO have two, everything else one. -/
def Instr.words : Instr → Nat
  | .call _ _ => 2
  | .goto _ _ => 2
  | .doLit _ _ => 2
  | .doReg _ _ => 2
  | _ => 1

/-! ## The encoder -/

/-- The first word of a three-operand row with size, two modes and a base register. -/
def encode3 (sz : Size) (wb : WReg) (dm : BitVec 3) (wd : WReg) (sm : BitVec 3) (ws : WReg) :
    PWord :=
  place 15 wb ||| place 14 sz.code ||| place 11 dm ||| place 7 wd ||| place 4 sm ||| place 0 ws

/-- The fields of a shift or MUL row: Wb, Wd, three bits, four bits. -/
def encodeW (wb wd : WReg) (m : BitVec 3) (ws : BitVec 4) : PWord :=
  place 11 wb ||| place 7 wd ||| place 4 m ||| place 0 ws

/-- The fields of a table row. -/
def encodeT (sz : Size) (dm : Mode) (wd : WReg) (sm : Mode) (ws : WReg) : PWord :=
  place 14 sz.code ||| place 11 dm.code ||| place 7 wd ||| place 4 sm.code ||| place 0 ws

/-- The accumulator and prefetch fields of a multiply row. -/
def encodeP (a : AccId) (xd yd : DspReg) (x y : Option PreAccess) : PWord :=
  place 15 a.code ||| place 12 xd.code ||| place 10 yd.code ||| place 6 (prefetchCode x)
    ||| place 2 (prefetchCode y)

/-- The fields of an accumulator load or store row. -/
def encodeA (a : AccId) (wb : WReg) (sh : BitVec 4) (m : MovMode) (w : WReg) : PWord :=
  place 15 a.code ||| place 11 wb ||| place 7 sh ||| place 4 m.code ||| place 0 w

/-- The fields of a bit row: `bbb` is bits 2:0 of the bit number, the last bit its bit 3 (R147). -/
def encodeBit (bit : BitVec 4) (f : BitVec 12) : PWord :=
  place 13 (bit.extractLsb' 0 3) ||| place 1 f ||| place 0 (bit.extractLsb' 3 1)

/-- The first word of an instruction (R146, the strings of the table in their order). -/
def encodeFirst : Instr → PWord
  | .movWsWd sz wb dm wd sm ws => 0x780000#24 ||| encode3 sz wb dm.code wd sm.code ws
  | .movFWnd f wd => 0x800000#24 ||| place 4 f ||| place 0 wd
  | .movWregF sz f => 0xB7A000#24 ||| place 14 sz.code ||| place 0 f
  | .movLit16Wnd lit wd => 0x200000#24 ||| place 4 lit ||| place 0 wd
  | .movdLoad wd sm ws => 0xBE0000#24 ||| place 8 wd ||| place 4 sm.code ||| place 0 ws
  | .movdStore dm wd ws => 0xBE8000#24 ||| place 11 dm.code ||| place 7 wd ||| place 1 ws
  | .pushS => 0xFEA000#24
  | .popS => 0xFE8000#24
  | .lnk lit => 0xFA0000#24 ||| place 1 lit
  | .ulnk => 0xFA8000#24
  | .se wd sm ws => 0xFB0000#24 ||| place 7 wd ||| place 4 sm.code ||| place 0 ws
  | .ze wd sm ws => 0xFB8000#24 ||| place 7 wd ||| place 4 sm.code ||| place 0 ws
  | .addWbWsWd sz wb dm wd sm ws => 0x400000#24 ||| encode3 sz wb dm.code wd sm.code ws
  | .addF sz d f => 0xB40000#24 ||| place 14 sz.code ||| place 13 d.code ||| place 0 f
  | .bset bit f => 0xA80000#24 ||| encodeBit bit f
  | .btsc bit f => 0xAF0000#24 ||| encodeBit bit f
  | .asrLit wb wd lit => 0xDE8000#24 ||| encodeW wb wd 4#3 lit
  | .asrReg wb wd ws => 0xDE8000#24 ||| encodeW wb wd 0#3 ws
  | .lsrLit wb wd lit => 0xDE0000#24 ||| encodeW wb wd 4#3 lit
  | .lsrReg wb wd ws => 0xDE0000#24 ||| encodeW wb wd 0#3 ws
  | .slLit wb wd lit => 0xDD0000#24 ||| encodeW wb wd 4#3 lit
  | .slReg wb wd ws => 0xDD0000#24 ||| encodeW wb wd 0#3 ws
  | .mulUU wb wd sm ws => 0xB80000#24 ||| encodeW wb wd sm.code ws
  | .mulUS wb wd sm ws => 0xB88000#24 ||| encodeW wb wd sm.code ws
  | .mulSU wb wd sm ws => 0xB90000#24 ||| encodeW wb wd sm.code ws
  | .mulSS wb wd sm ws => 0xB98000#24 ||| encodeW wb wd sm.code ws
  | .mulF sz f => 0xBC0000#24 ||| place 14 sz.code ||| place 0 f
  | .mac m a xd yd x y b =>
      0xC00000#24 ||| place 16 m.code ||| encodeP a xd yd x y ||| place 0 b.code
  | .macSquare m a xd yd x y => 0xF00000#24 ||| place 16 m.code ||| encodeP a xd yd x y
  | .msc m a xd yd x y b =>
      0xC04000#24 ||| place 16 m.code ||| encodeP a xd yd x y ||| place 0 b.code
  | .mpy m a xd yd x y => 0xC00003#24 ||| place 16 m.code ||| encodeP a xd yd x y
  | .mpySquare m a xd yd x y => 0xF00001#24 ||| place 16 m.code ||| encodeP a xd yd x y
  | .mpyN m a xd yd x y => 0xC04003#24 ||| place 16 m.code ||| encodeP a xd yd x y
  | .ed m a xd x y => 0xF04003#24 ||| place 16 m.code ||| encodeP a xd .w4 (some x) (some y)
  | .edac m a xd x y => 0xF04002#24 ||| place 16 m.code ||| encodeP a xd .w4 (some x) (some y)
  | .addAcc a => 0xCB0000#24 ||| place 15 a.code
  | .addWsAcc a wb sh sm ws => 0xC90000#24 ||| encodeA a wb sh sm ws
  | .lac a wb sh sm ws => 0xCA0000#24 ||| encodeA a wb sh sm ws
  | .sac a wb sh dm wd => 0xCC0000#24 ||| encodeA a wb sh dm wd
  | .sacR a wb sh dm wd => 0xCD0000#24 ||| encodeA a wb sh dm wd
  | .sftacLit a lit => 0xC80040#24 ||| place 15 a.code ||| place 0 lit
  | .sftacReg a wb => 0xC80000#24 ||| place 15 a.code ||| place 0 wb
  | .divSW t v wn => 0xD80000#24 ||| encodeW t v 0#3 wn
  | .divSD t v wn => 0xD80000#24 ||| encodeW t v 4#3 wn
  | .divUW t v wn => 0xD88000#24 ||| encodeW t v 0#3 wn
  | .divUD t v wn => 0xD88000#24 ||| encodeW t v 4#3 wn
  | .divF wm wn => 0xD90000#24 ||| place 11 wm ||| place 0 wn
  | .call n1 _ => 0x020000#24 ||| place 1 n1
  | .rcall n => 0x070000#24 ||| place 0 n
  | .goto n1 _ => 0x040000#24 ||| place 1 n1
  | .bra n => 0x370000#24 ||| place 0 n
  | .ret => 0x060000#24
  | .retlw sz lit wd => 0x050000#24 ||| place 14 sz.code ||| place 4 lit ||| place 0 wd
  | .retfie => 0x064000#24
  | .nop => 0x000000#24
  | .repeatLit lit => 0x090000#24 ||| place 0 lit
  | .repeatReg wn => 0x098000#24 ||| place 0 wn
  | .doLit lit _ => 0x080000#24 ||| place 0 lit
  | .doReg wn _ => 0x088000#24 ||| place 0 wn
  | .disi lit => 0xFC0000#24 ||| place 0 lit
  | .pwrsv lit => 0xFE4000#24 ||| place 0 lit
  | .reset => 0xFE0000#24
  | .tblrdl sz dm wd sm ws => 0xBA0000#24 ||| encodeT sz dm wd sm ws
  | .tblrdh sz dm wd sm ws => 0xBA8000#24 ||| encodeT sz dm wd sm ws
  | .tblwtl sz dm wd sm ws => 0xBB0000#24 ||| encodeT sz dm wd sm ws
  | .tblwth sz dm wd sm ws => 0xBB8000#24 ||| encodeT sz dm wd sm ws

/-- The second word, where the instruction has one (R146). -/
def encodeSecond : Instr → Option PWord
  | .call _ n2 => some (place 0 n2)
  | .goto _ n2 => some (place 0 n2)
  | .doLit _ n => some (place 0 n)
  | .doReg _ n => some (place 0 n)
  | _ => none

/-- The words of an instruction. -/
def encode (i : Instr) : PWord × Option PWord := (encodeFirst i, encodeSecond i)

/-! ## The host's numbering of an instruction's bits -/

/-- The words of an instruction whose bits are `w`, bit 0 the least significant bit of the first
word and the second word's bits counting on from it; bits from `nbits` up are 0. -/
def tableWords (nbits w : Nat) : PWord × PWord :=
  let v := w % 2 ^ nbits
  (BitVec.ofNat 24 v, BitVec.ofNat 24 (v / 2 ^ 24))

/-- The instruction the decoder reads from an instruction whose bits are `w`. -/
def decodeTableWord (nbits w : Nat) : Option Instr :=
  let ws := tableWords nbits w
  match decode ws.1 (some ws.2) with
  | .ok i => some i
  | .error _ => none

end Sys2Proof
end

