-- ==== Sys2Proof/Machine/State.lean ====
section
/-! DEFINITION. The machine's state, its reset value, and the reasons a step can stop. Plain data:
every piece of state the spec gives (R20), what the rules on consecutive instructions need of the
three instructions before (R381, R481, R490, R493), and the model's own counter of free values. -/

namespace Sys2Proof.Machine

/-- SR (R33), less the bits that are derived on a read: OAB, SAB (R36) and DA (R37). -/
structure Status where
  oa : Bool
  ob : Bool
  sa : Bool
  sb : Bool
  dc : Bool
  /-- IPL<2:0> -/
  ipl : BitVec 3
  ra : Bool
  n : Bool
  ov : Bool
  z : Bool
  c : Bool
deriving DecidableEq, Repr

/-- CORCON (R42), less EDT, which stores nothing (R43). -/
structure CoreControl where
  us : Bool
  /-- DL<2:0> -/
  dl : BitVec 3
  sata : Bool
  satb : Bool
  satdw : Bool
  accsat : Bool
  ipl3 : Bool
  psv : Bool
  rnd : Bool
  /-- IF -/
  intMode : Bool
deriving DecidableEq, Repr

/-- The four bits of INTCON1 that CPU rules read (R70). -/
structure IntControl where
  nstdis : Bool
  ovate : Bool
  ovbte : Bool
  covte : Bool
deriving DecidableEq, Repr

/-- The PUSH.S shadow registers (R29). -/
structure Shadow where
  w0 : Word
  w1 : Word
  w2 : Word
  w3 : Word
  n : Bool
  ov : Bool
  z : Bool
  c : Bool
  dc : Bool
deriving DecidableEq, Repr

/-- The DO loop registers DOSTART, DOEND and DCOUNT (R53, R54), and their shadows (R30). -/
structure DoRegs where
  start : BitVec 22
  stop : BitVec 22
  count : BitVec 14
deriving DecidableEq, Repr

/-- The request for early termination of a DO loop, with its age (R377). -/
inductive EdtRequest
  | none
  | new
  | old
  | ripe
deriving DecidableEq, Repr

/-- The progress record `dv` of an iterated divide (R307). -/
structure DivRecord where
  pc0 : PAddr
  iter : Nat
  q : Int
  r : Int
  ok : Bool
  w0 : Word
  w1 : Word
  dn : Word
deriving DecidableEq, Repr

/-- Whether the CPU runs, or PWRSV has ended the run (R402, R478). -/
inductive Power
  | run
  | sleep
  | idle
deriving DecidableEq, Repr

/-- An interrupt request the outside world presents (R426): its priority level and its vector. -/
structure Irq where
  level : BitVec 3
  vector : PAddr
deriving DecidableEq, Repr

/-- What the outside world presents at one step boundary (R7, R426, R427). -/
structure Boundary where
  reset : Bool
  irqs : List Irq
deriving DecidableEq, Repr

/-- What one instruction did that a rule on the instructions after it reads. -/
structure Access where
  /-- the W registers it modified, as R481 and R484 count modification -/
  modified : List WReg
  /-- the W registers it formed a source effective address from (R481) -/
  sourceEA : List WReg
  /-- it formed an effective address from W15 (R432) -/
  stackEA : Bool
  /-- it wrote SPLIM through data space (R490) -/
  wroteSplim : Bool
  /-- it wrote SR<7:5>, or an IECx or IPCx register, through data space (R381) -/
  wrotePriority : Bool
  /-- it wrote DCOUNT, DOSTART or DOEND through data space (R381) -/
  wroteLoop : Bool
  /-- it wrote DOEND through data space (R493) -/
  wroteDoend : Bool
  /-- it wrote DISICNT (R400) -/
  wroteDisi : Bool
  /-- it read data through the PSV window (R506) -/
  psvRead : Bool
  /-- it ended in a reset (R423, R403) -/
  reset : Bool
deriving DecidableEq, Repr

/-- The record of an instruction that has done nothing yet. -/
def Access.quiet : Access where
  modified := []
  sourceEA := []
  stackEA := false
  wroteSplim := false
  wrotePriority := false
  wroteLoop := false
  wroteDoend := false
  wroteDisi := false
  psvRead := false
  reset := false

/-- An executed instruction and what it did. -/
structure Executed where
  instr : Instr
  access : Access
deriving DecidableEq, Repr

/-- The machine. Fields from `draws` on are the model's own. -/
structure State where
  /-- W0 to W15 (R21); W15<0> is 0 (R24) -/
  w : Vector Word 16
  /-- the initialised marks of W0 to W14 (R26) -/
  winit : Vector Bool 15
  /-- PC (R31): between steps, the address of the next instruction -/
  pc : PAddr
  /-- ACCA (R46) -/
  acca : Acc40
  /-- ACCB (R46) -/
  accb : Acc40
  /-- SR (R33) -/
  sr : Status
  /-- CORCON (R42) -/
  corcon : CoreControl
  /-- SPLIM (R45) -/
  splim : Word
  /-- the latch `splim_en` (R45) -/
  splimEn : Bool
  /-- TBLPAG (R50) -/
  tblpag : BitVec 8
  /-- PSVPAG (R51) -/
  psvpag : BitVec 8
  /-- RCOUNT (R52) -/
  rcount : BitVec 14
  /-- DOSTART, DOEND, DCOUNT (R53, R54) -/
  loop : DoRegs
  /-- MODCON (R55) -/
  modcon : Word
  /-- XMODSRT (R56) -/
  xmodsrt : Word
  /-- XMODEND (R56) -/
  xmodend : Word
  /-- YMODSRT (R56) -/
  ymodsrt : Word
  /-- YMODEND (R56) -/
  ymodend : Word
  /-- XBREV (R57) -/
  xbrev : Word
  /-- DISICNT (R58) -/
  disicnt : BitVec 14
  /-- the PUSH.S shadows (R29) -/
  shadow : Shadow
  /-- the DO shadows (R30) -/
  loopShadow : DoRegs
  /-- INTCON1's NSTDIS, OVATE, OVBTE, COVTE (R70) -/
  intcon : IntControl
  /-- `edt_request` (R80, R377) -/
  edt : EdtRequest
  /-- `rpt_fresh` (R80, R362) -/
  rptFresh : Bool
  /-- `dv` (R80, R307) -/
  dv : Option DivRecord
  /-- StackError is pending (R423) -/
  stackPending : Bool
  /-- ArithmeticError is pending (R423) -/
  arithPending : Bool
  /-- running, or ended by PWRSV (R402) -/
  power : Power
  /-- data memory (R96 case 5): addresses rising, no byte equal to 0 (log entry 3) -/
  ram : List Host.Cell
  /-- program memory (R110): the implemented addresses and their words (log entry 4) -/
  prog : List (Nat × PWord)
  /-- the device's parameters (R7) -/
  dev : Config.Device
  /-- what the outside world will present, one entry for each step boundary (log entry 15) -/
  inputs : List Boundary
  /-- how many free values have been drawn (R9, log entry 14) -/
  draws : Nat
  /-- what the instruction under way has done so far -/
  cur : Access
  /-- the three instructions executed last, the most recent first (R381, R481, R490, R493) -/
  hist : List Executed
  /-- no exception has been entered since the most recent of them (R506, log entry 20) -/
  adjacent : Bool
  /-- the REPEAT targets in front of which an exception was entered, each by its address and W15 at the
  entry, until they are executed (R80, R300, R366, log entry 55) -/
  targets : List (PAddr × Word)
  /-- the second words of skipped two-word instructions not yet executed, whose NOPs take no cycle
  (R503, log entry 25) -/
  skipNops : List PAddr
deriving DecidableEq, Repr

/-- Why the machine stops with a fault. Both are the spec's own outcomes of a run (R478). -/
inductive Fault
  /-- `Fault(AddressError)` (R446): raised by a word access to data space at an odd address.
  Safe: the hardware is said to take a trap instead, and the model goes no further. -/
  | addressError
  /-- `Halted` (R478): raised by the step after a PWRSV has been executed. Safe: the machine would
  wake, and the model goes no further. -/
  | halted
deriving DecidableEq, Repr

/-- Why the machine stops with a refusal: the spec's own `refuse` (R9). Every one of them is safe:
the hardware goes on in a way the spec gives no meaning to, and the model goes no further. -/
inductive Refusal
  /-- An instruction whose meaning is not written: raised by `exec`. Safe. -/
  | notModelled (mnemonic : String)
  /-- A word that is no row of the opcode table (R148): raised by the fetch. Safe. -/
  | illegalWord (e : DecodeError)
  /-- A fetch outside `PROG_IMPL` (R110, R320): raised by the fetch. Safe. -/
  | fetchOutside
  /-- A special function register whose behaviour the device does not give (R96, R97): raised by
  a data access. Safe. -/
  | sfrWindow
  /-- Data memory that is not implemented (R96, R97): raised by a data access. Safe. -/
  | unimplementedData
  /-- A write through the PSV window (R97): raised by a data write. Safe. -/
  | psvWrite
  /-- A PSV read of program memory that is not implemented (R110): raised by a data read. Safe. -/
  | psvOutside
  /-- PCL or PCH accessed as data (R32): raised by a data access. Safe. -/
  | pcAsData
  /-- A REPEAT target that accesses RCOUNT as data (R364): raised by a data access. Safe. -/
  | rcountInRepeat
  /-- A REPEAT target that reads SRL as data (R364): raised by a data read. Safe. -/
  | srlInRepeat
  /-- DISICNT read while it counts (R400): raised by a data read. Safe. -/
  | disicntRead
  /-- DOEND read right after a DO or a write to DOEND (R493): raised by a data read. Safe. -/
  | doendRead
  /-- A source address from W15 right after a write to SPLIM (R490): raised by an operand. Safe. -/
  | splimHazard
  /-- An indirect access with modulo or bit-reversed addressing on (R103): raised by an operand.
  Safe. -/
  | moduloAddressing
  /-- A trap raised at a CPU priority not below its own level (R457): raised at the end of the
  instruction or exception entry that raises the trap. Safe. -/
  | trapNested
  /-- The register offset form (R5, R140): raised by an operand. Safe. -/
  | registerOffset
  /-- An odd register where an even pair is needed (R170, R171, R230, R302): raised by MOV.D,
  MUL and the 32-bit divides. Safe. -/
  | oddPair
  /-- A register shift amount above 15 (R220): raised by ASR, LSR and SL. Safe. -/
  | shiftAmount
  /-- A SFTAC register amount outside -32 to 31 (R285): raised by SFTAC. Safe. -/
  | sftacAmount
  /-- A prefetch outside its own X or Y block (R266): raised by a DSP instruction. Safe. -/
  | prefetchBlock
  /-- Two prefetches into one register (R266): raised by a DSP instruction. Safe. -/
  | prefetchTwice
  /-- A divisor in W0 or W1 (R301): raised by the divides. Safe. -/
  | divisorRegister
  /-- A field `t` that does not fit the dividend (log entry 53): raised by the divides. Safe. -/
  | dividendField
  /-- RETLW into W15 (R331): raised by RETLW. Safe. -/
  | retlwStack
  /-- REPEAT Wn with bits 15:14 set (R363): raised by REPEAT. Safe. -/
  | repeatCount
  /-- A forbidden REPEAT target (R366): raised before the REPEAT executes, and before a forbidden target
  that a return makes one. Safe. -/
  | repeatTarget
  /-- A DO loop length of -2, -1 or 0 (R372, R382): raised by DO; a DO loop of one instruction made by
  data writes (R381, log entry 67): raised at the loop end. Safe. -/
  | doLength
  /-- A DO loop address with bit 22 set (R372): raised by DO. Safe. -/
  | doAddress
  /-- DO at nesting level 7 (R372): raised by DO. Safe. -/
  | doNesting
  /-- A forbidden last instruction of a DO loop (R380): raised at the loop end. Safe. -/
  | doLast
  /-- A priority or loop register write too near the end of a DO loop (R381): raised at the loop
  end. Safe. -/
  | doHazard
  /-- Two DO loops ending on one instruction (R375): raised at the loop end. Safe. -/
  | doSharedEnd
  /-- W15 left below 0x0800 with no effective address formed from it (R432): raised at the end of
  the step. Safe. -/
  | stackFloor
  /-- TBLRDL, TBLRDH (R405): raised by them, on every path. Safe. -/
  | tableRead
  /-- TBLWTL, TBLWTH (R405): raised by them, on every path. Safe. -/
  | tableWrite
deriving DecidableEq, Repr

/-- How an operation ends when it does not answer a state: the reset of R445, which abandons the
instruction and is applied to the state it began in; a fault; a refusal. -/
inductive Stop
  /-- `UninitWReset(n)` (R423, R445) -/
  | uninitReset (n : WReg)
  | fault (f : Fault)
  | refused (r : Refusal)
deriving DecidableEq, Repr

/-- SR after reset: 0x0000 (R61). -/
def Status.reset : Status where
  oa := false
  ob := false
  sa := false
  sb := false
  dc := false
  ipl := 0#3
  ra := false
  n := false
  ov := false
  z := false
  c := false

/-- CORCON after reset: 0x0020, only SATDW set (R42, R61). -/
def CoreControl.reset : CoreControl where
  us := false
  dl := 0#3
  sata := false
  satb := false
  satdw := true
  accsat := false
  ipl3 := false
  psv := false
  rnd := false
  intMode := false

/-- INTCON1's four bits after reset: 0 (R61, R70). -/
def IntControl.reset : IntControl where
  nstdis := false
  ovate := false
  ovbte := false
  covte := false

/-- DESIGN CHOICE (log entry 1): the spec gives the shadows no reset value. -/
def Shadow.reset : Shadow where
  w0 := 0#16
  w1 := 0#16
  w2 := 0#16
  w3 := 0#16
  n := false
  ov := false
  z := false
  c := false
  dc := false

/-- DESIGN CHOICE (log entry 1): the spec gives the loop registers no reset value. -/
def DoRegs.reset : DoRegs where
  start := 0#22
  stop := 0#22
  count := 0#14

/-- The machine right after reset (R61, R470). The registers the spec leaves unspecified (RCOUNT,
the DO registers, XMODSRT, XMODEND, YMODSRT, YMODEND, XBREV and the shadows) are 0 but for the
fixed 1 of XMODEND and YMODEND: DESIGN CHOICE (log entry 1). Program memory is empty, so no program
address is implemented until a program is loaded (log entry 4). -/
def State.reset : State where
  w := (Vector.replicate 16 0#16).set 15 0x0800#16
  winit := Vector.replicate 15 false
  pc := 0#23
  acca := 0#40
  accb := 0#40
  sr := Status.reset
  corcon := CoreControl.reset
  splim := 0#16
  splimEn := false
  tblpag := 0#8
  psvpag := 0#8
  rcount := 0#14
  loop := DoRegs.reset
  modcon := 0#16
  xmodsrt := 0#16
  xmodend := 1#16
  ymodsrt := 0#16
  ymodend := 1#16
  xbrev := 0#16
  disicnt := 0#14
  shadow := Shadow.reset
  loopShadow := DoRegs.reset
  intcon := IntControl.reset
  edt := .none
  rptFresh := false
  dv := none
  stackPending := false
  arithPending := false
  power := .run
  ram := []
  prog := []
  dev := Config.defaultDevice
  inputs := []
  draws := 0
  cur := Access.quiet
  hist := []
  adjacent := false
  targets := []
  skipNops := []

end Sys2Proof.Machine
end

