-- ==== Sys2Proof/Machine/Ops.lean ====
section
/-! DEFINITION. The named operations over registers and memory that the meanings share: the working
registers, the core register map, data space reads and writes, free values, effective addresses and
the stack, raising a trap, taking an exception and returning from one, and the reset. -/

namespace Sys2Proof.Machine

/-! ## Cells: lists of (address, value) with addresses strictly rising -/

/-- The value listed at `a`. -/
def findCell {α : Type} : List (Nat × α) → Nat → Option α
  | [], _ => none
  | c :: m, a => if c.1 = a then some c.2 else findCell m a

/-- `x` listed at `a`, keeping the order. -/
def putCell {α : Type} : List (Nat × α) → Nat → α → List (Nat × α)
  | [], a, x => [(a, x)]
  | c :: m, a, x =>
    if a < c.1 then (a, x) :: c :: m
    else if c.1 = a then (a, x) :: m
    else c :: putCell m a x

/-- Nothing listed at `a`. -/
def dropCell {α : Type} : List (Nat × α) → Nat → List (Nat × α)
  | [], _ => []
  | c :: m, a => if c.1 = a then m else c :: dropCell m a

/-- Addresses strictly rising, each at least `lo`. -/
def risingFrom {α : Type} : Nat → List (Nat × α) → Bool
  | _, [] => true
  | lo, c :: m => decide (lo ≤ c.1) && risingFrom (c.1 + 1) m

/-- Data memory: the bytes that are not 0 (log entry 3). -/
abbrev Memory := List Host.Cell

/-- What a byte that nothing lists reads as. DESIGN CHOICE (log entry 3), unsafe: the spec leaves
the content of data RAM open (U1). -/
def Memory.unlisted : Byte := 0#8

/-- The canonical form: addresses strictly rising, and no byte equal to an unlisted one. -/
def Memory.wf (m : Memory) : Bool := risingFrom 0 m && m.all fun c => c.2 != Memory.unlisted

/-- The byte at `a`. -/
def Memory.read (m : Memory) (a : Nat) : Byte := (findCell m a).getD Memory.unlisted

/-- `b` written at `a`, keeping the canonical form. -/
def Memory.write (m : Memory) (a : Nat) (b : Byte) : Memory :=
  if b = Memory.unlisted then dropCell m a else putCell m a b

/-! ## Free values (R9, log entry 14) -/

/-- A free word, and the state that has drawn it. -/
def drawWord (s : State) : Word × State :=
  (Config.freeWord s.draws, { s with draws := s.draws + 1 })

/-- A free bit. -/
def drawBit (s : State) : Bool × State :=
  (Config.freeBit s.draws, { s with draws := s.draws + 1 })

/-- A free natural number below `n`, for an `n` that is not 0. -/
def drawBelow (n : Nat) (s : State) : Nat × State :=
  (Config.freeNat s.draws % n, { s with draws := s.draws + 1 })

/-! ## What the instruction under way has done -/

/-- A change to the record of the instruction under way. -/
def note (f : Access → Access) (s : State) : State := { s with cur := f s.cur }

/-- `Wn` has been modified, as R481 and R484 count it. -/
def noteModified (n : WReg) (s : State) : State :=
  note (fun a => { a with modified := n :: a.modified }) s

/-- Whether `p` holds of the instruction executed immediately before this one, be an exception entered
between them or not (R490, R493, log entry 20). -/
def previously (p : Executed → Bool) (s : State) : Bool :=
  match s.hist with
  | [] => false
  | e :: _ => p e

/-! ## Working registers (R21 to R27) -/

/-- `W[n]`. -/
def getW (n : WReg) (s : State) : Word := s.w.get n.toFin

/-- Bit 0 of W15 is fixed to 0 (R24). -/
def fixedW (n : WReg) (v : Word) : Word := if n = 15#4 then v &&& 0xFFFE#16 else v

/-- `v` stored in Wn, with no other effect. -/
def putW (n : WReg) (v : Word) (s : State) : State :=
  { s with w := s.w.set n.toNat (fixedW n v) n.isLt }

/-- The initialised mark of Wn; W15 needs none (R26). -/
def isInit (n : WReg) (s : State) : Bool := n == 15#4 || (s.winit[n.toNat]?).getD true

/-- The mark of Wn set (R26); there is none for W15. -/
def markInit (n : WReg) (s : State) : State :=
  { s with winit := s.winit.setIfInBounds n.toNat true }

/-- `W[n] <- v` as a destination: a word write, which initialises Wn (R9, R26). -/
def setW (n : WReg) (v : Word) (s : State) : State := noteModified n (markInit n (putW n v s))

/-- `W[n].b <- v` as a destination: bits 15:8 and the mark keep their value (R27). -/
def setWByte (n : WReg) (v : Byte) (s : State) : State :=
  noteModified n (putW n ((getW n s).extractLsb' 8 8 ++ v) s)

/-- The value of a `sz` operand in a word: byte mode keeps bits 7:0 (R201). -/
def narrow (sz : Size) (v : Word) : Word :=
  match sz with
  | .word => v
  | .byte => v &&& 0x00FF#16

/-- A direct register destination (R162). -/
def setWSized (sz : Size) (n : WReg) (v : Word) (s : State) : State :=
  match sz with
  | .word => setW n v s
  | .byte => setWByte n (v.setWidth 8) s

/-! ## The accumulators -/

/-- `ACCX`. -/
def getAcc (x : AccId) (s : State) : Acc40 :=
  match x with
  | .accA => s.acca
  | .accB => s.accb

/-- `ACCX <- v`. -/
def setAcc (x : AccId) (v : Acc40) (s : State) : State :=
  match x with
  | .accA => { s with acca := v }
  | .accB => { s with accb := v }

/-! ## The status registers as words -/

/-- DA: the OR of the DL bits (R37). -/
def loopActive (s : State) : Bool := s.corcon.dl != 0#3

/-- SR<7:0>, the lower status register (R33). -/
def srLow (s : State) : Byte :=
  s.sr.ipl ++ BitVec.ofBool s.sr.ra ++ BitVec.ofBool s.sr.n ++ BitVec.ofBool s.sr.ov
    ++ BitVec.ofBool s.sr.z ++ BitVec.ofBool s.sr.c

/-- SR<15:8>, with OAB, SAB and DA derived (R33, R36, R37). -/
def srHigh (s : State) : Byte :=
  BitVec.ofBool s.sr.oa ++ BitVec.ofBool s.sr.ob ++ BitVec.ofBool s.sr.sa ++ BitVec.ofBool s.sr.sb
    ++ BitVec.ofBool (s.sr.oa || s.sr.ob) ++ BitVec.ofBool (s.sr.sa || s.sr.sb)
    ++ BitVec.ofBool (loopActive s) ++ BitVec.ofBool s.sr.dc

/-- A read of SR (R33). -/
def srWord (s : State) : Word := srHigh s ++ srLow s

/-- A software write to SR (R41). -/
def writeSr (v : Word) (s : State) : State :=
  { s with sr := { s.sr with
      c := v.getLsbD 0
      z := v.getLsbD 1
      ov := v.getLsbD 2
      n := v.getLsbD 3
      ipl := if s.intcon.nstdis then s.sr.ipl else v.extractLsb' 5 3
      dc := v.getLsbD 8
      sa := s.sr.sa && v.getLsbD 13 && v.getLsbD 10
      sb := s.sr.sb && v.getLsbD 12 && v.getLsbD 10 } }

/-- A read of CORCON: bits 15:13 and EDT read 0 (R42, R43). -/
def corconWord (s : State) : Word :=
  0#3 ++ BitVec.ofBool s.corcon.us ++ 0#1 ++ s.corcon.dl ++ BitVec.ofBool s.corcon.sata
    ++ BitVec.ofBool s.corcon.satb ++ BitVec.ofBool s.corcon.satdw ++ BitVec.ofBool s.corcon.accsat
    ++ BitVec.ofBool s.corcon.ipl3 ++ BitVec.ofBool s.corcon.psv ++ BitVec.ofBool s.corcon.rnd
    ++ BitVec.ofBool s.corcon.intMode

/-- A software write to CORCON (R43); a 1 in bit 11 asks for early termination while a DO loop is
active (R377). -/
def writeCorcon (v : Word) (s : State) : State :=
  { s with
    corcon := { s.corcon with
      us := v.getLsbD 12
      sata := v.getLsbD 7
      satb := v.getLsbD 6
      satdw := v.getLsbD 5
      accsat := v.getLsbD 4
      ipl3 := s.corcon.ipl3 && v.getLsbD 3
      psv := v.getLsbD 2
      rnd := v.getLsbD 1
      intMode := v.getLsbD 0 }
    edt := if v.getLsbD 11 && loopActive s then .new else s.edt }

/-- The CPU interrupt priority level, 0 to 15 (R425). -/
def cpuLevel (s : State) : Nat := (if s.corcon.ipl3 then 8 else 0) + s.sr.ipl.toNat

/-! ## The core register map (R60) -/

/-- The registers of data addresses 0x0000 to 0x007F. -/
inductive CoreReg
  | w (n : WReg)
  | splim
  | accL (x : AccId)
  | accH (x : AccId)
  | accU (x : AccId)
  | pc
  | tblpag
  | psvpag
  | rcount
  | dcount
  | dostartL
  | dostartH
  | doendL
  | doendH
  | sr
  | corcon
  | modcon
  | xmodsrt
  | xmodend
  | ymodsrt
  | ymodend
  | xbrev
  | disicnt
  | reserved
deriving DecidableEq, Repr

/-- The register whose word holds data address `a` (R60, R98). -/
def coreRegAt (a : Word) : CoreReg :=
  if a < 0x0020#16 then .w (a.extractLsb' 1 4)
  else match a.toNat / 2 with
    | 0x10 => .splim
    | 0x11 => .accL .accA
    | 0x12 => .accH .accA
    | 0x13 => .accU .accA
    | 0x14 => .accL .accB
    | 0x15 => .accH .accB
    | 0x16 => .accU .accB
    | 0x17 => .pc
    | 0x18 => .pc
    | 0x19 => .tblpag
    | 0x1A => .psvpag
    | 0x1B => .rcount
    | 0x1C => .dcount
    | 0x1D => .dostartL
    | 0x1E => .dostartH
    | 0x1F => .doendL
    | 0x20 => .doendH
    | 0x21 => .sr
    | 0x22 => .corcon
    | 0x23 => .modcon
    | 0x24 => .xmodsrt
    | 0x25 => .xmodend
    | 0x26 => .ymodsrt
    | 0x27 => .ymodend
    | 0x28 => .xbrev
    | 0x29 => .disicnt
    | _ => .reserved

/-- The word a read of a core register returns, unimplemented bits 0 (R46, R47, R50 to R60). The
case of PCL and PCH is not reached: `readHazard` refuses it (R32). -/
def readReg (r : CoreReg) (s : State) : Word :=
  match r with
  | .w n => getW n s
  | .splim => s.splim
  | .accL x => (getAcc x s).extractLsb' 0 16
  | .accH x => (getAcc x s).extractLsb' 16 16
  | .accU x => ((getAcc x s).extractLsb' 32 8).signExtend 16
  | .pc => 0#16
  | .tblpag => s.tblpag.setWidth 16
  | .psvpag => s.psvpag.setWidth 16
  | .rcount => s.rcount.setWidth 16
  | .dcount => s.loop.count.setWidth 16
  | .dostartL => s.loop.start.extractLsb' 0 16
  | .dostartH => (s.loop.start.extractLsb' 16 6).setWidth 16
  | .doendL => s.loop.stop.extractLsb' 0 16
  | .doendH => (s.loop.stop.extractLsb' 16 6).setWidth 16
  | .sr => srWord s
  | .corcon => corconWord s
  | .modcon => s.modcon
  | .xmodsrt => s.xmodsrt
  | .xmodend => s.xmodend
  | .ymodsrt => s.ymodsrt
  | .ymodend => s.ymodend
  | .xbrev => s.xbrev
  | .disicnt => s.disicnt.setWidth 16
  | .reserved => 0#16

/-- The effect of writing the word `v` to a core register (R24, R26, R41, R43, R45, R47, R50 to
R59); `wide` when the access is a word write, which alone initialises Wn and enables the stack
limit check (R26, R45). The case of PCL and PCH is not reached. -/
def writeReg (r : CoreReg) (wide : Bool) (v : Word) (s : State) : State :=
  match r with
  | .w n => if wide then setW n v s else noteModified n (putW n v s)
  | .splim =>
    note (fun a => { a with wroteSplim := true })
      { s with splim := v &&& 0xFFFE#16, splimEn := s.splimEn || wide }
  | .accL x => setAcc x ((getAcc x s).extractLsb' 16 24 ++ v) s
  | .accH x => setAcc x ((getAcc x s).extractLsb' 32 8 ++ v ++ (getAcc x s).extractLsb' 0 16) s
  | .accU x => setAcc x (v.extractLsb' 0 8 ++ (getAcc x s).extractLsb' 0 32) s
  | .pc => s
  | .tblpag => { s with tblpag := v.setWidth 8 }
  | .psvpag => { s with psvpag := v.setWidth 8 }
  | .rcount => { s with rcount := v.setWidth 14 }
  | .dcount => { s with loop := { s.loop with count := v.setWidth 14 } }
  | .dostartL => { s with loop := { s.loop with
      start := s.loop.start.extractLsb' 16 6 ++ (v &&& 0xFFFE#16) } }
  | .dostartH => { s with loop := { s.loop with
      start := v.extractLsb' 0 6 ++ s.loop.start.extractLsb' 0 16 } }
  | .doendL => { s with loop := { s.loop with
      stop := s.loop.stop.extractLsb' 16 6 ++ (v &&& 0xFFFE#16) } }
  | .doendH => { s with loop := { s.loop with
      stop := v.extractLsb' 0 6 ++ s.loop.stop.extractLsb' 0 16 } }
  | .sr => writeSr v s
  | .corcon => writeCorcon v s
  | .modcon => { s with modcon := v &&& 0xCFFF#16 }
  | .xmodsrt => { s with xmodsrt := v &&& 0xFFFE#16 }
  | .xmodend => { s with xmodend := v ||| 0x0001#16 }
  | .ymodsrt => { s with ymodsrt := v &&& 0xFFFE#16 }
  | .ymodend => { s with ymodend := v ||| 0x0001#16 }
  | .xbrev => { s with xbrev := v }
  | .disicnt => note (fun a => { a with wroteDisi := true }) { s with disicnt := v.setWidth 14 }
  | .reserved => s

/-- A data access of size `sz` at `a` that takes in the even byte of its word. -/
def touchesLow (sz : Size) (a : Word) : Bool := sz == .word || !a.getLsbD 0

/-- The reads of core registers that the spec refuses (R32, R364, R400, R493). -/
def readHazard (sz : Size) (a : Word) (s : State) : Option Refusal :=
  match coreRegAt a with
  | .pc => some .pcAsData
  | .rcount => if s.sr.ra then some .rcountInRepeat else none
  | .sr => if s.sr.ra && touchesLow sz a then some .srlInRepeat else none
  | .disicnt => if s.disicnt != 0#14 then some .disicntRead else none
  | .doendL | .doendH =>
    if previously (fun e => e.access.wroteDoend || match e.instr with
      | .doLit _ _ | .doReg _ _ => true
      | _ => false) s then some .doendRead else none
  | _ => none

/-- The writes of core registers that the spec refuses (R32, R364). -/
def writeHazard (a : Word) (s : State) : Option Refusal :=
  match coreRegAt a with
  | .pc => some .pcAsData
  | .rcount => if s.sr.ra then some .rcountInRepeat else none
  | _ => none

/-- The record of a write to a core register that a later rule reads (R381, R493). That a write to SRL
counts as one to SR<7:5> while NSTDIS keeps these bits too is a DESIGN CHOICE (log entry 65). -/
def noteCoreWrite (sz : Size) (a : Word) (s : State) : State :=
  match coreRegAt a with
  | .sr => note (fun c => { c with wrotePriority := c.wrotePriority || touchesLow sz a }) s
  | .dcount | .dostartL | .dostartH => note (fun c => { c with wroteLoop := true }) s
  | .doendL | .doendH => note (fun c => { c with wroteLoop := true, wroteDoend := true }) s
  | _ => s

/-- The byte of the word `v` that address `a` names (R92). -/
def byteAt (a : Word) (v : Word) : Byte :=
  if a.getLsbD 0 then v.extractLsb' 8 8 else v.extractLsb' 0 8

/-- The word `v` with the byte that address `a` names replaced by `b` (R92, R97). -/
def withByteAt (a : Word) (b : Byte) (v : Word) : Word :=
  if a.getLsbD 0 then b ++ v.extractLsb' 0 8 else v.extractLsb' 8 8 ++ b

/-- The word `v` as an access of size `sz` at `a` reads it. -/
def accessWord (sz : Size) (a : Word) (v : Word) : Word :=
  match sz with
  | .word => v
  | .byte => (byteAt a v).setWidth 16

/-! ## Data space (R90 to R109) -/

/-- `a` lies in the range `r`. -/
def inRange (r : Option (Word × Word)) (a : Word) : Bool :=
  match r with
  | none => false
  | some (lo, hi) => decide (lo ≤ a) && decide (a ≤ hi)

/-- `a` is an implemented byte of RAM (R96 case 5). -/
def isRam (d : Config.Device) (a : Word) : Bool :=
  decide (a ≤ d.ramEnd) || (decide (0x8000#16 ≤ a) && inRange d.upperRam a)

/-- `a` lies in an IECx or IPCx register (R70, log entry 61). -/
def isIrqReg (d : Config.Device) (a : Word) : Bool :=
  d.irqRegs.any fun r => decide (r.1 ≤ a) && decide (a ≤ r.2)

/-- What the device says of the special function register at `a`: `SFR(addr)` of R7, the interrupt
enable and priority registers being plain storage (log entries 5 and 49). -/
def sfrKind (d : Config.Device) (a : Word) : Option Config.SfrKind :=
  if isIrqReg d a then some .plain
  else (d.sfr.find? fun r => decide (r.first ≤ a) && decide (a ≤ r.last)).map Config.SfrRange.kind

/-- What lies at a data address: the six cases of R96, after the alignment test. -/
inductive Region
  /-- a core register -/
  | core
  /-- INTCON1, where the device gives its address -/
  | intcon
  /-- data RAM, or special function registers of the kind `plain` -/
  | storage
  /-- special function registers of the kind `readOnly` -/
  | readOnly
  /-- special function registers of the kind `free` -/
  | free
  /-- a special function register whose behaviour the device does not give -/
  | sfr
  /-- the PSV window -/
  | psv
  /-- nothing -/
  | absent
deriving DecidableEq, Repr

/-- The region in the range of the peripheral registers (R96 case 3). A word of two kinds, or half
outside what the device gives, is unknown: DESIGN CHOICE (log entry 51). -/
def sfrRegion (sz : Size) (a : Word) (d : Config.Device) : Region :=
  if sz = .word ∧ sfrKind d (a + 1#16) ≠ sfrKind d a then .sfr
  else match sfrKind d a with
    | none => .sfr
    | some .plain => .storage
    | some .readOnly => .readOnly
    | some .free => .free

/-- The case of R96 that an access of size `sz` at `a` falls under. A word half outside implemented RAM
is absent, so refused, where R96 tests the even address alone: DESIGN CHOICE (log entry 51). -/
def regionOf (sz : Size) (a : Word) (s : State) : Region :=
  if a < 0x0080#16 then .core
  else if a < 0x0800#16 then
    if s.dev.intcon1 = some (a &&& 0xFFFE#16) then .intcon else sfrRegion sz a s.dev
  else if s.corcon.psv && decide (0x8000#16 ≤ a) then .psv
  else if isRam s.dev a && (sz == .byte || isRam s.dev (a + 1#16)) then .storage
  else .absent

/-- A word access at an odd address (R93). -/
def misaligned (sz : Size) (a : Word) : Bool := sz == .word && a.getLsbD 0

/-- The program address of the PSV window's address `a` (R107). -/
def psvAddr (a : Word) (s : State) : PAddr := s.psvpag ++ a.extractLsb' 1 14 ++ 0#1

/-- The four bits of INTCON1 in their places (R70), every other bit 0. -/
def intconHeld (s : State) : Word :=
  BitVec.ofBool s.intcon.nstdis ++ 0#4 ++ BitVec.ofBool s.intcon.ovate
    ++ BitVec.ofBool s.intcon.ovbte ++ BitVec.ofBool s.intcon.covte ++ 0#8

/-- INTCON1 read as data: the four bits of R70, and free values for the bits the spec does not name
(log entry 29). -/
def intconWord (s : State) : Word := intconHeld s ||| (Config.freeWord s.draws &&& 0x78FF#16)

/-- INTCON1 written as data: only the four bits of R70 are stored (log entry 29). -/
def writeIntcon (v : Word) (s : State) : State :=
  { s with intcon := { nstdis := v.getLsbD 15, ovate := v.getLsbD 10, ovbte := v.getLsbD 9,
                       covte := v.getLsbD 8 } }

/-- The stored bytes of an access: a word is two bytes, the low one at the lower address (R92). -/
def storageRead (sz : Size) (a : Word) (s : State) : Word :=
  match sz with
  | .word => Memory.read s.ram (a + 1#16).toNat ++ Memory.read s.ram a.toNat
  | .byte => (Memory.read s.ram a.toNat).setWidth 16

/-- The bytes of an access stored (R92, R97). -/
def storageWrite (sz : Size) (a : Word) (v : Word) (s : State) : State :=
  let m := Memory.write s.ram a.toNat (v.extractLsb' 0 8)
  match sz with
  | .word => { s with ram := Memory.write m (a + 1#16).toNat (v.extractLsb' 8 8) }
  | .byte => { s with ram := m }

/-- `MemRead(a, n)` (R96): the value, a byte zero-extended, and the state after. -/
def memRead (sz : Size) (a : Word) (s : State) : Except Stop (Word × State) :=
  if misaligned sz a then .error (.fault .addressError)
  else match regionOf sz a s with
    | .core => match readHazard sz a s with
      | some r => .error (.refused r)
      | none => .ok (accessWord sz a (readReg (coreRegAt a) s), s)
    | .intcon => .ok (accessWord sz a (intconWord s), { s with draws := s.draws + 1 })
    | .storage | .readOnly => .ok (storageRead sz a s, s)
    | .free => .ok (accessWord sz a (drawWord s).1, (drawWord s).2)
    | .sfr => .error (.refused .sfrWindow)
    | .psv => match findCell s.prog (psvAddr a s).toNat with
      | none => .error (.refused .psvOutside)
      | some w => .ok (accessWord sz a (w.extractLsb' 0 16),
          note (fun c => { c with psvRead := true }) s)
    | .absent => .error (.refused .unimplementedData)

/-- The word a write of size `sz` leaves for a register's write rule: a byte write replaces only the
addressed byte (R97). -/
def mergeWrite (sz : Size) (a : Word) (v old : Word) : Word :=
  match sz with
  | .word => v
  | .byte => withByteAt a (v.extractLsb' 0 8) old

/-- `MemWrite(a, n, v)` (R97). -/
def memWrite (sz : Size) (a : Word) (v : Word) (s : State) : Except Stop State :=
  if misaligned sz a then .error (.fault .addressError)
  else match regionOf sz a s with
    | .core => match writeHazard a s with
      | some r => .error (.refused r)
      | none => .ok (noteCoreWrite sz a
          (writeReg (coreRegAt a) (sz == .word) (mergeWrite sz a v (readReg (coreRegAt a) s)) s))
    | .intcon => .ok (writeIntcon (mergeWrite sz a v (intconHeld s)) s)
    | .storage =>
      let t := storageWrite sz a v s
      .ok (if isIrqReg s.dev a || (sz == .word && isIrqReg s.dev (a + 1#16)) then
          note (fun c => { c with wrotePriority := true }) t
        else t)
    | .readOnly | .free => .ok s
    | .sfr => .error (.refused .sfrWindow)
    | .psv => .error (.refused .psvWrite)
    | .absent => .error (.refused .unimplementedData)

/-- The word of program memory at `a` (R110). -/
def progRead (a : PAddr) (s : State) : Option PWord := findCell s.prog a.toNat

/-! ## Raising a trap (R423, R457) -/

/-- `Level(StackError)` (R422). -/
def stackLevel (s : State) : Nat := 8 + s.dev.stackLevel.toNat

/-- `Level(ArithmeticError)` (R422). -/
def arithLevel (s : State) : Nat := 8 + s.dev.arithLevel.toNat

/-- `raise StackError`: the request becomes pending and the instruction goes on (R423). -/
def raiseStack (s : State) : State := { s with stackPending := true }

/-- `raise ArithmeticError`, likewise (R423). -/
def raiseArith (s : State) : State := { s with arithPending := true }

/-- Between `s` and `t` a trap has been raised at a CPU priority that is its own level or higher
(R457). The level is the one the instruction began at (log entry 16). -/
def trapNested (s t : State) : Bool :=
  (t.stackPending && !s.stackPending && decide (stackLevel s ≤ cpuLevel s))
    || (t.arithPending && !s.arithPending && decide (arithLevel s ≤ cpuLevel s))

/-! ## Effective addresses and the stack (R100, R161, R162, R430 to R433) -/

/-- What an effective address is formed for. Entering StackError checks no stack limit (R435). -/
inductive Role
  | source
  | dest
  | entry
deriving DecidableEq, Repr

/-- An address formed from W15 that is out of the stack's bounds (R431, R432). -/
def stackBad (ea : Word) (s : State) : Bool :=
  (s.splimEn && decide (s.splim.toNat + s.dev.splimSlack < ea.toNat))
    || decide (ea.toNat < Config.ramBase)

/-- The stack checks on an address `ea` formed from Wn (R430 to R432). -/
def stackCheck (role : Role) (n : WReg) (ea : Word) (s : State) : State :=
  if n = 15#4 ∧ role ≠ .entry ∧ stackBad ea s then raiseStack s else s

/-- Modulo or bit-reversed addressing is enabled (R103). -/
def moduloOn (s : State) : Bool := s.modcon.getLsbD 15 || s.modcon.getLsbD 14 || s.xbrev.getLsbD 15

/-- The record of an effective address formed from Wn (R432, R481). -/
def noteEA (role : Role) (n : WReg) (s : State) : State :=
  note (fun a => { a with
    sourceEA := if role = .source then n :: a.sourceEA else a.sourceEA
    stackEA := a.stackEA || n == 15#4 }) s

/-- The checks that come before an address formed from Wn is used (R26, R103, R490). That the mark is
tested before the addressing modes, so that an unmarked pointer resets the device while modulo or
bit-reversed addressing is enabled too, is a DESIGN CHOICE (log entry 62). -/
def pointerStop (role : Role) (n : WReg) (s : State) : Option Stop :=
  if !isInit n s then some (.uninitReset n)
  else if moduloOn s then some (.refused .moduloAddressing)
  else if n = 15#4 ∧ role = .source ∧ previously (fun e => e.access.wroteSplim) s then
    some (.refused .splimHazard)
  else none

/-- `EA(n)`: the address Wn holds, after the checks of R100. -/
def useEA (role : Role) (n : WReg) (s : State) : Except Stop (Word × State) :=
  match pointerStop role n s with
  | some e => .error e
  | none => .ok (getW n s, stackCheck role n (getW n s) (noteEA role n s))

/-- An increment by `d` of W15 carries out of bit 15 (R433, log entry 30). -/
def wraps (role : Role) (n : WReg) (d : Int) (s : State) : Bool :=
  n == 15#4 && s.splimEn && role != .entry && decide (0 < d)
    && decide (0x10000 ≤ (getW n s).toNat + d.toNat)

/-- The pointer Wn moved by `d`, modulo 2^16 (R101), with the wrap check of R433. A destination
pointer counts as modified (R481). -/
def movePtr (role : Role) (n : WReg) (d : Int) (s : State) : State :=
  let t := if wraps role n d s then raiseStack s else s
  let u := putW n (getW n s + BitVec.ofInt 16 d) t
  if role = .dest then noteModified n u else u

/-- `Push(v)` (R9, R178). -/
def push (role : Role) (v : Word) (s : State) : Except Stop State := do
  let (ea, s) ← useEA role 15#4 s
  memWrite .word ea v (movePtr role 15#4 2 s)

/-- `Pop()` (R9, R178). -/
def pop (s : State) : Except Stop (Word × State) := do
  let (ea, s) ← useEA .source 15#4 (movePtr .source 15#4 (-2) s)
  memRead .word ea s

/-! ## The program counter -/

/-- The address `n` instruction words on, modulo 2^23 (R10, log entry 46). -/
def ahead (n : Nat) (a : PAddr) : PAddr := a + BitVec.ofNat 23 (2 * n)

/-- The pc moved past an instruction of `n` words (R10). -/
def advance (n : Nat) (s : State) : State := { s with pc := ahead n s.pc }

/-- `pc <- a`. -/
def setPc (a : PAddr) (s : State) : State := { s with pc := a }

/-- The program address two stacked words hold: `hi[6:0] : lo[15:1] : 0` (R330). -/
def stackedPc (hi lo : Word) : PAddr := hi.extractLsb' 0 7 ++ lo.extractLsb' 1 15 ++ 0#1

/-- The two pushes of a return address (R322). -/
def pushReturn (ret : PAddr) (s : State) : Except Stop State := do
  let s ← push .dest (ret.extractLsb' 0 16) s
  push .dest ((ret.extractLsb' 16 7).setWidth 16) s

/-- The two pops of a return (R330). -/
def popReturn (s : State) : Except Stop State := do
  let (hi, s) ← pop s
  let (lo, s) ← pop s
  return setPc (stackedPc hi lo) s

/-! ## Exceptions -/

/-- The exceptions that are entered through a vector (R421). -/
inductive Exception
  | stackError
  | arithmeticError
  | interrupt (q : Irq)
deriving DecidableEq, Repr

/-- `Level(src)` (R422). -/
def levelOf (e : Exception) (s : State) : Nat :=
  match e with
  | .stackError => stackLevel s
  | .arithmeticError => arithLevel s
  | .interrupt q => q.level.toNat

/-- `Vector(src)` (R422), bit 0 being 0 in every program address (R31). -/
def vectorOf (e : Exception) (s : State) : PAddr :=
  (match e with
  | .stackError => s.dev.stackVector
  | .arithmeticError => s.dev.arithVector
  | .interrupt q => q.vector) &&& 0x7FFFFE#23

/-- The second word stacked by an exception: SRL, IPL3, PC<22:16> (R450). -/
def statusWord (s : State) : Word :=
  srLow s ++ BitVec.ofBool s.corcon.ipl3 ++ s.pc.extractLsb' 16 7

/-- The request `e` is no longer pending. -/
def clearPending (e : Exception) (s : State) : State :=
  match e with
  | .stackError => { s with stackPending := false }
  | .arithmeticError => { s with arithPending := false }
  | .interrupt _ => s

/-- The CPU priority an entry sets (R450). -/
def enterLevel (e : Exception) (s : State) : State :=
  match e with
  | .interrupt q => { s with sr := { s.sr with
      ipl := if s.intcon.nstdis then 7#3 else q.level } }
  | .stackError => { s with
      sr := { s.sr with ipl := s.dev.stackLevel }, corcon := { s.corcon with ipl3 := true } }
  | .arithmeticError => { s with
      sr := { s.sr with ipl := s.dev.arithLevel }, corcon := { s.corcon with ipl3 := true } }

/-- DISICNT after an exception entry: a free value between 0 and its old value (R506). Where one of
the entry's own pushes writes DISICNT the old value is the one just written: DESIGN CHOICE (log
entry 54). -/
def entryDisi (s : State) : State :=
  if s.disicnt = 0#14 then s
  else
    let (k, t) := drawBelow (s.disicnt.toNat + 1) s
    { t with disicnt := BitVec.ofNat 14 k }

/-- The age of an early termination request after a step (R377). -/
def ageEdt : EdtRequest → EdtRequest
  | .none => .none
  | .new => .old
  | .old => .ripe
  | .ripe => .ripe

/-- A write to SPLIM that an exception entry's pushes made counts as one just before the handler's
first instruction (R490). -/
def noteEntry (a : Access) (h : List Executed) : List Executed :=
  match h with
  | [] => []
  | e :: r =>
    { e with access := { e.access with wroteSplim := e.access.wroteSplim || a.wroteSplim } } :: r

/-- `RA <- b`. -/
def setRa (b : Bool) (s : State) : State := { s with sr := { s.sr with ra := b } }

/-- An entry in front of a REPEAT target that has not run yet: `rpt_fresh` is kept with the target's
address and W15, since the handler's instructions are not that target (R80, R300, log entry 55). -/
def holdTarget (s : State) : State :=
  if s.rptFresh then
    { s with rptFresh := false, targets := s.targets.insert (s.pc, getW 15#4 s) }
  else s

/-- Taking the exception `e` (R450): the pc and the status are pushed, RA is cleared, the CPU
priority becomes the exception's, and execution goes on at its vector. The two pushes are checked
but for StackError's own (R435). No write can change RA, so it is cleared before the pushes and
stacked as it was: they are no accesses of a REPEAT target, which R364 would refuse at RCOUNT. -/
def takeException (e : Exception) (s : State) : Except Stop State := do
  let role : Role := if e = .stackError then .entry else .dest
  let t := setRa false (holdTarget (clearPending e s))
  let t ← push role (s.pc.extractLsb' 0 16) t
  let t ← push role (statusWord (setRa s.sr.ra t)) t
  let t := enterLevel e t
  let t := entryDisi (setPc (vectorOf e t) t)
  return { t with edt := ageEdt t.edt, adjacent := false, hist := noteEntry t.cur t.hist }

/-- SRL restored from the upper byte of a stacked word, whatever NSTDIS is, and IPL3 from its bit 7
(R332). -/
def restoreStatus (hi : Word) (s : State) : State :=
  { s with
    sr := { s.sr with
      ipl := hi.extractLsb' 13 3
      ra := hi.getLsbD 12
      n := hi.getLsbD 11
      ov := hi.getLsbD 10
      z := hi.getLsbD 9
      c := hi.getLsbD 8 }
    corcon := { s.corcon with ipl3 := hi.getLsbD 7 } }

/-- The instruction at `s.pc` is about to run: `rpt_fresh` is 1 again where it is a REPEAT target in front
of which an exception was entered and which has not run since (R80, R300, log entry 55). -/
def resumeTarget (s : State) : State :=
  { s with rptFresh := s.rptFresh || s.targets.contains (s.pc, getW 15#4 s) }

/-- Returning from an exception (R332, R455). -/
def returnFromException (s : State) : Except Stop State := do
  let (hi, s) ← pop s
  let (lo, s) ← pop s
  return setPc (stackedPc hi lo) (restoreStatus hi s)

/-! ## Reset (R470) -/

/-- Free values for a set of DO loop registers, from the `k`-th draw on (R470). -/
def freeLoop (k : Nat) : DoRegs where
  start := (Config.freeWord k ++ Config.freeWord (k + 1)).setWidth 22 &&& 0x3FFFFE#22
  stop := (Config.freeWord (k + 2) ++ Config.freeWord (k + 3)).setWidth 22 &&& 0x3FFFFE#22
  count := (Config.freeWord (k + 4)).setWidth 14

/-- Free values for the PUSH.S shadows, from the `k`-th draw on (R470). -/
def freeShadow (k : Nat) : Shadow where
  w0 := Config.freeWord k
  w1 := Config.freeWord (k + 1)
  w2 := Config.freeWord (k + 2)
  w3 := Config.freeWord (k + 3)
  n := Config.freeBit k
  ov := Config.freeBit (k + 1)
  z := Config.freeBit (k + 2)
  c := Config.freeBit (k + 3)
  dc := Config.freeBit (k + 4)

/-- A reset during a run (R470): the registers take their reset values, those the spec leaves
unspecified free values (log entry 2); data RAM and program memory keep their content (R403). The
special function registers that the device gives as storage, IECx and IPCx among them, have no reset
value in the source (R70) and keep their content with RAM: DESIGN CHOICE (log entry 50). The record of
executed instructions is empty, so that the hazards of R490 and R493 do not reach across the reset, on
which those rules are silent: DESIGN CHOICE (log entry 60). -/
def deviceReset (s : State) : State :=
  let d := s.draws
  { State.reset with
    ram := s.ram
    prog := s.prog
    dev := s.dev
    inputs := s.inputs
    draws := d + 21
    rcount := (Config.freeWord d).setWidth 14
    xbrev := Config.freeWord (d + 1)
    xmodsrt := Config.freeWord (d + 2) &&& 0xFFFE#16
    xmodend := Config.freeWord (d + 3) ||| 0x0001#16
    ymodsrt := Config.freeWord (d + 4) &&& 0xFFFE#16
    ymodend := Config.freeWord (d + 5) ||| 0x0001#16
    loop := freeLoop (d + 6)
    loopShadow := freeLoop (d + 11)
    shadow := freeShadow (d + 16)
    cur := { Access.quiet with reset := true } }

/-- The outcome of an instruction that began in `s` (R423, R445, log entry 38). A trap that R457 refuses
is refused here, so that a reset or an address error of the same instruction comes first (R427). -/
def finish (s : State) : Except Stop State → Host.Outcome State Fault Refusal
  | .ok t => if trapNested s t then .refused .trapNested else .next t
  | .error (.uninitReset _) => .next (deviceReset s)
  | .error (.fault f) => .fault f
  | .error (.refused r) => .refused r

end Sys2Proof.Machine
end

