-- ==== Sys2Proof/Machine/Flags.lean ====
section
/-! DEFINITION. The flags of the MCU ALU (R202 to R206) and the ways the instructions write them.
Operands and results of byte mode stand in the low byte of a word whose high byte is 0 (R201). -/

namespace Sys2Proof.Machine

/-- The operand width `w` (R201). -/
def Size.bits (sz : Size) : Nat :=
  match sz with
  | .word => 16
  | .byte => 8

/-- The half width `h` of the digit carry (R206). -/
def Size.half (sz : Size) : Nat :=
  match sz with
  | .word => 8
  | .byte => 4

/-- Bit `w - 1` of a value of size `sz`. -/
def signBit (sz : Size) (v : Word) : Bool := v.getLsbD (Size.bits sz - 1)

/-- The `w`-bit sum (R210). -/
def addResult (sz : Size) (a m : Word) : Word := narrow sz (a + m)

/-- C of an addition: the carry out of the most significant bit (R202). -/
def addCarry (sz : Size) (a m : Word) : Bool := decide (2 ^ Size.bits sz ≤ a.toNat + m.toNat)

/-- OV of an addition: the operands have one sign and the result the other (R205). -/
def addOverflow (sz : Size) (a m : Word) : Bool :=
  signBit sz a == signBit sz m && signBit sz (addResult sz a m) != signBit sz a

/-- DC of an addition: the carry out of the low half (R206). -/
def addDigitCarry (sz : Size) (a m : Word) : Bool :=
  decide (2 ^ Size.half sz ≤ a.toNat % 2 ^ Size.half sz + m.toNat % 2 ^ Size.half sz)

/-- C, Z, N, OV and DC of the addition of `a` and `m`, of size `sz` (R202 to R206, R210). -/
def setAddFlags (sz : Size) (a m : Word) (s : State) : State :=
  { s with sr := { s.sr with
      c := addCarry sz a m
      z := addResult sz a m == 0#16
      n := signBit sz (addResult sz a m)
      ov := addOverflow sz a m
      dc := addDigitCarry sz a m } }

/-- N and Z of a shift's result (R220 to R222). -/
def setShiftFlags (v : Word) (s : State) : State :=
  { s with sr := { s.sr with n := signBit .word v, z := v == 0#16 } }

/-- N, Z and C of SE (R185): the byte `b` is negative, is zero, is not negative. -/
def setSignExtendFlags (b : Word) (s : State) : State :=
  { s with sr := { s.sr with
      n := signBit .byte b, z := b == 0#16, c := !signBit .byte b } }

/-- N, Z and C of ZE (R186). -/
def setZeroExtendFlags (b : Word) (s : State) : State :=
  { s with sr := { s.sr with n := false, z := b == 0#16, c := true } }

/-- C, Z, N, OV and DC become free values (R307, R311). -/
def setFreeFlags (s : State) : State :=
  let d := s.draws
  { s with
    draws := d + 5
    sr := { s.sr with
      c := Config.freeBit d
      z := Config.freeBit (d + 1)
      n := Config.freeBit (d + 2)
      ov := Config.freeBit (d + 3)
      dc := Config.freeBit (d + 4) } }

end Sys2Proof.Machine
end

