-- ==== Sys2Proof/Machine/Operands.lean ====
section
/-! DEFINITION. The operand forms: the source and destination procedures of R161 and R162 for every
addressing mode of R140 and R145, the double word forms of R170 and R171, file register operands,
and the prefetch and write back operands of the DSP instructions (R266, R270). -/

namespace Sys2Proof.Machine

/-- The step `s` of a pointer: 2 for words, 1 for bytes (R161, log entry 8). -/
def Size.step (sz : Size) : Nat :=
  match sz with
  | .word => 2
  | .byte => 1

/-- What a mode adds to its pointer before the address is formed, in steps (R140, log entry 9). -/
def preStep (m : Mode) : Int :=
  match m with
  | .preDec => -1
  | .preInc => 1
  | .direct | .ind | .postDec | .postInc => 0

/-- What a mode adds to its pointer after the address is formed, in steps. -/
def postStep (m : Mode) : Int :=
  match m with
  | .postDec => -1
  | .postInc => 1
  | .direct | .ind | .preDec | .preInc => 0

/-- The pointer of an operand moved, when the mode moves it at this place. -/
def stepPtr (role : Role) (n : WReg) (d : Int) (s : State) : State :=
  if d = 0 then s else movePtr role n d s

/-- The address of an indirect operand whose pointer moves by `k` at a step: the modification that
comes first, then `EA(n)`. -/
def operandEA (role : Role) (k : Nat) (m : Mode) (n : WReg) (s : State) :
    Except Stop (Word × State) :=
  useEA role n (stepPtr role n (preStep m * k) s)

/-- `Src(mode, n, B)` (R161): the value, a byte zero-extended, and the state after. -/
def srcOperand (sz : Size) (m : Mode) (n : WReg) (s : State) : Except Stop (Word × State) :=
  if m = .direct then .ok (narrow sz (getW n s), s)
  else do
    let (ea, s) ← operandEA .source (Size.step sz) m n s
    let (v, s) ← memRead sz ea s
    return (v, stepPtr .source n (postStep m * Size.step sz) s)

/-- `Dst(mode, n, B, v)` (R162): the pointer is moved before the data write (R99). -/
def dstOperand (sz : Size) (m : Mode) (n : WReg) (v : Word) (s : State) : Except Stop State :=
  if m = .direct then .ok (setWSized sz n v s)
  else do
    let (ea, s) ← operandEA .dest (Size.step sz) m n s
    memWrite sz ea v (stepPtr .dest n (postStep m * Size.step sz) s)

/-- A mode of the classes `g` and `h`: `[Wn+Wb]` is refused (R5, G2, log entry 10). -/
def plainMode (m : MovMode) : Except Stop Mode :=
  match m with
  | .plain m => .ok m
  | .offset => .error (.refused .registerOffset)

/-- `Src` with a mode of class `g`. -/
def srcMov (sz : Size) (m : MovMode) (n : WReg) (s : State) : Except Stop (Word × State) := do
  let m ← plainMode m
  srcOperand sz m n s

/-- `Dst` with a mode of class `h`. -/
def dstMov (sz : Size) (m : MovMode) (n : WReg) (v : Word) (s : State) : Except Stop State := do
  let m ← plainMode m
  dstOperand sz m n v s

/-! ## Register pairs and double words (R170, R171, R229) -/

/-- A register pair starts at an even register. -/
def requireEven (n : WReg) : Except Stop Unit :=
  if n.isEven then .ok () else .error (.refused .oddPair)

/-- The double word in the pair Wn+1:Wn. -/
def getPair (n : WReg) (s : State) : BitVec 32 := getW (n + 1#4) s ++ getW n s

/-- `W[n] <- lo; W[n+1] <- hi`. -/
def setPair (n : WReg) (v : BitVec 32) (s : State) : State :=
  setW (n + 1#4) (v.extractLsb' 16 16) (setW n (v.extractLsb' 0 16) s)

/-- The double word operand of a MOV.D load (R170): the low word is at the lower address, which is the
one checked against the stack's bounds. -/
def srcDouble (m : Mode) (n : WReg) (s : State) : Except Stop (BitVec 32 × State) :=
  if m = .direct then do
    requireEven n
    return (getPair n s, s)
  else do
    let (ea, s) ← operandEA .source 4 m n s
    let (lo, s) ← memRead .word ea s
    let (hi, s) ← memRead .word (ea + 2#16) s
    return (hi ++ lo, stepPtr .source n (postStep m * 4) s)

/-- The double word destination of a MOV.D store (R171): both addresses are checked against the
stack's limit, and the second against its floor too, of which R171 does not speak: DESIGN CHOICE (log
entry 57). -/
def dstDouble (m : Mode) (n : WReg) (v : BitVec 32) (s : State) : Except Stop State :=
  if m = .direct then do
    requireEven n
    return setPair n v s
  else do
    let (ea, s) ← operandEA .dest 4 m n s
    let s := stepPtr .dest n (postStep m * 4) (stackCheck .dest n (ea + 2#16) s)
    let s ← memWrite .word ea (v.extractLsb' 0 16) s
    memWrite .word (ea + 2#16) (v.extractLsb' 16 16) s

/-! ## File register operands (R145, R161) -/

/-- The data address of the 13-bit field of a file register instruction: a byte address. -/
def fileAddr (f : BitVec 13) : Word := f.setWidth 16

/-- The data address of the 12-bit field of a bit instruction: bits 12:1 of an even address
(R147). -/
def bitFileAddr (f : BitVec 12) : Word := (f ++ 0#1).setWidth 16

/-- The data address of the 15-bit field of `MOV f,Wnd`: a word address (R145). -/
def wordFileAddr (f : BitVec 15) : Word := f ++ 0#1

/-! ## DSP operands (R265, R266, R270) -/

/-- The register a field `xx`, `yy` or `mm` names. -/
def dspW (r : DspReg) : WReg :=
  match r with
  | .w4 => 4#4
  | .w5 => 5#4
  | .w6 => 6#4
  | .w7 => 7#4

/-- The registers a field `mmm` names. -/
def pairW (m : MulPair) : WReg × WReg :=
  match m with
  | .w4w5 => (4#4, 5#4)
  | .w4w6 => (4#4, 6#4)
  | .w4w7 => (4#4, 7#4)
  | .w5w6 => (5#4, 6#4)
  | .w5w7 => (5#4, 7#4)
  | .w6w7 => (6#4, 7#4)

/-- The two prefetch sides. -/
inductive Side
  | x
  | y
deriving DecidableEq, Repr

/-- The pointer of a prefetch: W8 or W9 for X, W10 or W11 for Y (R28, R265). -/
def prefetchPtr (side : Side) (p : PrePtr) : WReg :=
  match side, p with
  | .x, .lower => 8#4
  | .x, .upper => 9#4
  | .y, .lower => 10#4
  | .y, .upper => 11#4

/-- The post-modification `k` of a prefetch. -/
def prefetchStep (k : PreStep) : Int :=
  match k with
  | .zero => 0
  | .plus2 => 2
  | .plus4 => 4
  | .plus6 => 6
  | .minus6 => -6
  | .minus4 => -4
  | .minus2 => -2

/-- `ea` lies in the side's own block: Y data memory is the device's range, X data memory the rest
of the data space (R266, log entry 31). While PSV is set the window is open to every X prefetch, also
where the device's Y range reaches into it (R106, R266). -/
def inBlock (side : Side) (ea : Word) (s : State) : Bool :=
  let inY := decide (s.dev.yFirst ≤ ea) && decide (ea ≤ s.dev.yLast)
  match side with
  | .x => !inY || (s.corcon.psv && decide (0x8000#16 ≤ ea))
  | .y => inY

/-- The read of a prefetch at `ea` (R266). A Y prefetch in the PSV window is `MemRead`'s PSV read, as R96
has it of every address there (log entry 68). -/
def prefetchRead (side : Side) (ea : Word) (s : State) : Except Stop (Word × State) :=
  if inBlock side ea s then memRead .word ea s else .error (.refused .prefetchBlock)

/-- The register a prefetch's pointer is. -/
def prefetchReg (side : Side) (a : PreAccess) : WReg :=
  match a with
  | .modify p _ => prefetchPtr side p
  | .offset => prefetchPtr side .upper

/-- The address of a prefetch, with its checks (R266). That the marks of both registers of an offset form
are tested before R103's refusal is a DESIGN CHOICE (log entry 62). -/
def prefetchEA (side : Side) (a : PreAccess) (s : State) : Except Stop (Word × State) :=
  match a with
  | .modify p _ => useEA .source (prefetchPtr side p) s
  | .offset =>
    if isInit 12#4 s then do
      let (ea, s) ← useEA .source (prefetchPtr side .upper) s
      let (off, s) ← useEA .source 12#4 s
      return (ea + off, s)
    else .error (.uninitReset 12#4)

/-- The pointer of a prefetch modified (R266). -/
def prefetchMod (side : Side) (a : PreAccess) (s : State) : State :=
  match a with
  | .modify p k => stepPtr .source (prefetchPtr side p) (prefetchStep k) s
  | .offset => s

/-- One prefetch: the address, its read and its pointer modification (R266); the value is written to
its register later. -/
def prefetchOne (side : Side) (a : PreAccess) (s : State) : Except Stop (Word × State) := do
  let (ea, s) ← prefetchEA side a s
  let (v, s) ← prefetchRead side ea s
  return (v, prefetchMod side a s)

/-- The address of a prefetch that may be absent. -/
def prefetchOptEA (side : Side) (a : Option PreAccess) (s : State) :
    Except Stop (Option Word × State) :=
  match a with
  | none => .ok (none, s)
  | some a => do
    let (ea, s) ← prefetchEA side a s
    return (some ea, s)

/-- The read of a prefetch that may be absent. -/
def prefetchOptRead (side : Side) (ea : Option Word) (s : State) :
    Except Stop (Option Word × State) :=
  match ea with
  | none => .ok (none, s)
  | some ea => do
    let (v, s) ← prefetchRead side ea s
    return (some v, s)

/-- The pointer modification of a prefetch that may be absent. -/
def prefetchOptMod (side : Side) (a : Option PreAccess) (s : State) : State :=
  match a with
  | none => s
  | some a => prefetchMod side a s

/-- A prefetched value written to its register (R266). -/
def setFetched (r : DspReg) (v : Option Word) (s : State) : State :=
  match v with
  | none => s
  | some v => setW (dspW r) v s

/-- Two prefetches do not name one register (R266). The field of an absent prefetch, which R145 says
is written 00, is not looked at: DESIGN CHOICE (log entry 52). -/
def requireDistinct (xd yd : DspReg) (x y : Option PreAccess) : Except Stop Unit :=
  if x.isSome && y.isSome && xd == yd then .error (.refused .prefetchTwice) else .ok ()

end Sys2Proof.Machine
end

