-- ==== Sys2Proof/Machine/Alu.lean ====
section
/-! DEFINITION. The meanings of the MCU ALU's instructions: ADD, BSET, BTSC, the multi-bit shifts
and the multiplies (R210 to R234). -/

namespace Sys2Proof.Machine

/-- ADD Wb,source,destination (R210). The flags are set before the destination write, so that a data
write to SR wins (R208, log entry 40). -/
def execAddWbWsWd (sz : Size) (wb : WReg) (dm : Mode) (wd : WReg) (sm : Mode) (ws : WReg)
    (s : State) : Host.Outcome State Fault Refusal :=
  finish s do
    let a := narrow sz (getW wb s)
    let (m, t) ← srcOperand sz sm ws s
    let t ← dstOperand sz dm wd (addResult sz a m) (setAddFlags sz a m t)
    return advance 1 t

/-- The destination of a file register instruction (R211). -/
def fileResult (sz : Size) (d : FileDest) (a v : Word) (s : State) : Except Stop State :=
  match d with
  | .wreg => .ok (setWSized sz 0#4 v s)
  | .file => memWrite sz a v s

/-- ADD f,WREG (R211). -/
def execAddF (sz : Size) (d : FileDest) (f : BitVec 13) (s : State) :
    Host.Outcome State Fault Refusal :=
  finish s do
    let a := narrow sz (getW 0#4 s)
    let (m, t) ← memRead sz (fileAddr f) s
    let t ← fileResult sz d (fileAddr f) (addResult sz a m) (setAddFlags sz a m t)
    return advance 1 t

/-- BSET f,#bit4 (R215). -/
def execBset (bit : BitVec 4) (f : BitVec 12) (s : State) : Host.Outcome State Fault Refusal :=
  finish s do
    let (v, t) ← memRead .word (bitFileAddr f) s
    let t ← memWrite .word (bitFileAddr f) (v ||| (1#16 <<< bit.toNat)) t
    return advance 1 t

/-- BTSC f,#bit4 (R216): one instruction word is passed over when the bit is clear (R335). -/
def execBtsc (bit : BitVec 4) (f : BitVec 12) (s : State) : Host.Outcome State Fault Refusal :=
  finish s do
    let (v, t) ← memRead .word (bitFileAddr f) s
    return advance (if v.getLsbD bit.toNat then 1 else 2) t

/-! ## Multi-bit shifts (R220 to R222) -/

/-- The amount of a register shift: above 15 it is refused (R220, D28). -/
def shiftAmount (ns : WReg) (s : State) : Except Stop Nat :=
  if (getW ns s).toNat ≤ 15 then .ok (getW ns s).toNat else .error (.refused .shiftAmount)

/-- A shift's result in Wd, with N and Z. -/
def shiftResult (wd : WReg) (v : Word) (s : State) : State :=
  advance 1 (setShiftFlags v (setW wd v s))

/-- What Wd holds after a shift's result `v` is written: W15<0> stays 0 (R24), and N and Z are of the
register's value. -/
def shiftTo (wd : WReg) (v : Word) (s : State) : State := shiftResult wd (fixedW wd v) s

/-- ASR Wb,#lit4,Wnd (R220). -/
def execAsrLit (wb wd : WReg) (lit : BitVec 4) (s : State) : Host.Outcome State Fault Refusal :=
  .next (shiftTo wd ((getW wb s).sshiftRight lit.toNat) s)

/-- ASR Wb,Wns,Wnd (R220). -/
def execAsrReg (wb wd ws : WReg) (s : State) : Host.Outcome State Fault Refusal :=
  finish s do
    let n ← shiftAmount ws s
    return shiftTo wd ((getW wb s).sshiftRight n) s

/-- LSR Wb,#lit4,Wnd (R221). -/
def execLsrLit (wb wd : WReg) (lit : BitVec 4) (s : State) : Host.Outcome State Fault Refusal :=
  .next (shiftTo wd (getW wb s >>> lit.toNat) s)

/-- LSR Wb,Wns,Wnd (R221). -/
def execLsrReg (wb wd ws : WReg) (s : State) : Host.Outcome State Fault Refusal :=
  finish s do
    let n ← shiftAmount ws s
    return shiftTo wd (getW wb s >>> n) s

/-- SL Wb,#lit4,Wnd (R222). -/
def execSlLit (wb wd : WReg) (lit : BitVec 4) (s : State) : Host.Outcome State Fault Refusal :=
  .next (shiftTo wd (getW wb s <<< lit.toNat) s)

/-- SL Wb,Wns,Wnd (R222). -/
def execSlReg (wb wd ws : WReg) (s : State) : Host.Outcome State Fault Refusal :=
  finish s do
    let n ← shiftAmount ws s
    return shiftTo wd (getW wb s <<< n) s

/-! ## Multiplies (R229 to R234) -/

/-- How a multiply reads an operand as an integer (R229). -/
def readAs (signed : Bool) (v : Word) : Int := if signed then v.toInt else (v.toNat : Int)

/-- A multiply Wb by a source into a register pair (R230), each operand signed or not. -/
def multiply (sb sm' : Bool) (wb wd : WReg) (sm : Mode) (ws : WReg) (s : State) :
    Except Stop State := do
  requireEven wd
  let (m, t) ← srcOperand .word sm ws s
  let p := readAs sb (getW wb s) * readAs sm' m
  return advance 1 (setPair wd (BitVec.ofInt 32 p) t)

/-- MUL.UU Wb,source,Wnd (R230). -/
def execMulUU (wb wd : WReg) (sm : Mode) (ws : WReg) (s : State) :
    Host.Outcome State Fault Refusal :=
  finish s (multiply false false wb wd sm ws s)

/-- MUL.US Wb,source,Wnd (R233): Wb unsigned, the source signed. -/
def execMulUS (wb wd : WReg) (sm : Mode) (ws : WReg) (s : State) :
    Host.Outcome State Fault Refusal :=
  finish s (multiply false true wb wd sm ws s)

/-- MUL.SU Wb,source,Wnd (R232): Wb signed, the source unsigned. -/
def execMulSU (wb wd : WReg) (sm : Mode) (ws : WReg) (s : State) :
    Host.Outcome State Fault Refusal :=
  finish s (multiply true false wb wd sm ws s)

/-- MUL.SS Wb,source,Wnd (R231). -/
def execMulSS (wb wd : WReg) (sm : Mode) (ws : WReg) (s : State) :
    Host.Outcome State Fault Refusal :=
  finish s (multiply true true wb wd sm ws s)

/-- The result of MUL f (R234): W3:W2 in word mode, W2 in byte mode. -/
def setFileProduct (sz : Size) (p : BitVec 32) (s : State) : State :=
  match sz with
  | .word => setPair 2#4 p s
  | .byte => setW 2#4 (p.extractLsb' 0 16) s

/-- MUL f (R234): W0 times the file register, both unsigned. -/
def execMulF (sz : Size) (f : BitVec 13) (s : State) : Host.Outcome State Fault Refusal :=
  finish s do
    let a := narrow sz (getW 0#4 s)
    let (m, t) ← memRead sz (fileAddr f) s
    return advance 1 (setFileProduct sz (BitVec.ofNat 32 (a.toNat * m.toNat)) t)

end Sys2Proof.Machine
end

