-- ==== Sys2Proof/Machine/Divide.lean ====
section
/-! DEFINITION. Divide support (R300 to R311, log entry 33): one execution of a divide instruction is
`divStep`, and eighteen of them under REPEAT give the quotient and the remainder. -/

namespace Sys2Proof.Machine

/-- The five divides (R300). -/
inductive DivKind
  | sw
  | sd
  | uw
  | ud
  | frac
deriving DecidableEq, Repr

/-- The dividend as an integer (R302 to R306); for a 32-bit dividend `m` is the even register. -/
def dividend (k : DivKind) (m : WReg) (s : State) : Int :=
  match k with
  | .sw => (getW m s).toInt
  | .sd => (getPair m s).toInt
  | .uw => ((getW m s).toNat : Int)
  | .ud => ((getPair m s).toNat : Int)
  | .frac => (getW m s).toInt * 2 ^ 15

/-- The divisor as an integer (R302 to R306). -/
def divisor (k : DivKind) (n : WReg) (s : State) : Int :=
  match k with
  | .sw | .sd | .frac => (getW n s).toInt
  | .uw | .ud => ((getW n s).toNat : Int)

/-- The quotient is representable in W0 (R302 to R306, R309). -/
def quotientFits (k : DivKind) (q : Int) : Bool :=
  match k with
  | .sw | .sd | .frac => decide (-32768 ≤ q) && decide (q ≤ 32767)
  | .uw | .ud => decide (q ≤ 65535)

/-- W0 and W1 become values no rule fixes (R307). -/
def freeResults (s : State) : State :=
  let d := s.draws
  setW 1#4 (Config.freeWord (d + 1)) (setW 0#4 (Config.freeWord d) { s with draws := d + 2 })

/-- The record after the first execution (R307): quotient rounded toward zero, remainder. -/
def startDivide (k : DivKind) (m n : WReg) (s : State) : DivRecord :=
  let num := dividend k m s
  let d := divisor k n s
  let q := num.tdiv d
  { pc0 := s.pc, iter := 1, q := q, r := num - q * d, ok := quotientFits k q
    w0 := 0#16, w1 := 0#16, dn := getW n s }

/-- The sequence of divide executions is unbroken (R307). -/
def continues (r : DivRecord) (n : WReg) (s : State) : Bool :=
  r.pc0 == s.pc && decide (r.iter < 18) && getW 0#4 s == r.w0 && getW 1#4 s == r.w1
    && getW n s == r.dn

/-- The end of an execution, once the record has been brought up to date (R307): the results at the
eighteenth, free values before it. -/
def divideResult (s : State) : State :=
  match s.dv with
  | none => freeResults s
  | some r =>
    if r.iter = 18 ∧ r.ok then
      setW 1#4 (BitVec.ofInt 16 r.r) (setW 0#4 (BitVec.ofInt 16 r.q) { s with dv := none })
    else
      let t := freeResults s
      if r.iter = 18 then { t with dv := none }
      else { t with dv := some { r with w0 := getW 0#4 t, w1 := getW 1#4 t } }

/-- The record brought up to date by an execution that is not a first one. -/
def nextRecord (n : WReg) (s : State) : Option DivRecord :=
  match s.dv with
  | none => none
  | some r => if continues r n s then some { r with iter := r.iter + 1 } else none

/-- This execution is the first one under its REPEAT, or is under none (R307). -/
def firstExecution (s : State) : Bool := !s.sr.ra || s.rptFresh

/-- `DivStep(kind, m, n)` (R307); a zero divisor raises ArithmeticError (R308). -/
def divStep (k : DivKind) (m n : WReg) (s : State) : State :=
  if firstExecution s then
    if divisor k n s = 0 then raiseArith (setFreeFlags (freeResults { s with dv := none }))
    else setFreeFlags (divideResult { s with dv := some (startDivide k m n s) })
  else setFreeFlags (divideResult { s with dv := nextRecord n s })

/-- A divisor in W0 or W1 is refused (R301). -/
def requireDivisor (n : WReg) : Except Stop Unit :=
  if n = 0#4 ∨ n = 1#4 then .error (.refused .divisorRegister) else .ok ()

/-- A divide of a 16-bit dividend in `v` (R304, R305). R145 gives no value of `t` for it: that a word
whose `t` is not 0 is refused is a DESIGN CHOICE (log entry 53). -/
def divideWord (k : DivKind) (t v n : WReg) (s : State) : Except Stop State := do
  requireDivisor n
  if t = 0#4 then .ok (advance 1 (divStep k v n s)) else .error (.refused .dividendField)

/-- A divide of the 32-bit dividend in the pair `t`:`v`, `v` even (R301 to R303). That a word whose `t`
does not name the upper register is refused is a DESIGN CHOICE (log entry 53). -/
def divideDouble (k : DivKind) (t v n : WReg) (s : State) : Except Stop State := do
  requireDivisor n
  requireEven v
  if t = v + 1#4 then .ok (advance 1 (divStep k v n s)) else .error (.refused .dividendField)

/-- DIV.SW (R304). -/
def execDivSW (t v wn : WReg) (s : State) : Host.Outcome State Fault Refusal :=
  finish s (divideWord .sw t v wn s)

/-- DIV.SD (R302). -/
def execDivSD (t v wn : WReg) (s : State) : Host.Outcome State Fault Refusal :=
  finish s (divideDouble .sd t v wn s)

/-- DIV.UW (R305). -/
def execDivUW (t v wn : WReg) (s : State) : Host.Outcome State Fault Refusal :=
  finish s (divideWord .uw t v wn s)

/-- DIV.UD (R303). -/
def execDivUD (t v wn : WReg) (s : State) : Host.Outcome State Fault Refusal :=
  finish s (divideDouble .ud t v wn s)

/-- DIVF (R306). -/
def execDivF (wm wn : WReg) (s : State) : Host.Outcome State Fault Refusal :=
  finish s (divideWord .frac 0#4 wm wn s)

end Sys2Proof.Machine
end

