-- ==== Sys2Proof/Machine/Dsp.lean ====
section
/-! DEFINITION. The DSP engine's data paths (R246 to R262) and the meanings of the DSP instructions
(R272 to R285). Results are computed on the integers and narrowed at the end (R251, D15). -/

namespace Sys2Proof.Machine

/-! ## The multiplier (R246, R247) -/

/-- The three products the spec leaves open for fractional -1.0 x -1.0 (R247). -/
def cornerProduct (k : Nat) : Int :=
  match k with
  | 0 => 0x80000000
  | 1 => 0x7FFFFFFF
  | _ => -0x80000000

/-- The product R246 gives, for every pair of inputs but the corner of R247. -/
def plainProduct (x y : Word) (s : State) : Int :=
  let p := if s.corcon.us then (x.toNat : Int) * (y.toNat : Int) else x.toInt * y.toInt
  if s.corcon.intMode then p else 2 * p

/-- The input pair of R247: signed fractional -1.0 x -1.0. -/
def isCorner (x y : Word) (s : State) : Bool :=
  !s.corcon.us && !s.corcon.intMode && x == 0x8000#16 && y == 0x8000#16

/-- `DspMul(x, y)` (R246, R247, log entry 32). -/
def dspMul (x y : Word) (s : State) : Int × State :=
  if isCorner x y s then
    let (k, t) := drawBelow 3 s
    (cornerProduct k, t)
  else (plainProduct x y s, s)

/-! ## The adder (R250 to R257) -/

/-- SATA or SATB. -/
def satOn (x : AccId) (s : State) : Bool :=
  match x with
  | .accA => s.corcon.sata
  | .accB => s.corcon.satb

/-- OVATE or OVBTE. -/
def overflowTrap (x : AccId) (s : State) : Bool :=
  match x with
  | .accA => s.intcon.ovate
  | .accB => s.intcon.ovbte

/-- OX assigned, and SX set when `q` (R256, R257). -/
def setAccStatus (x : AccId) (o q : Bool) (s : State) : State :=
  match x with
  | .accA => { s with sr := { s.sr with oa := o, sa := s.sr.sa || q } }
  | .accB => { s with sr := { s.sr with ob := o, sb := s.sr.sb || q } }

/-- `r` does not fit bits 31:0 with their sign (R251). -/
def over31 (r : Int) : Bool := decide (r < -2 ^ 31) || decide (2 ^ 31 - 1 < r)

/-- `r` does not fit 40 bits (R251). -/
def over39 (r : Int) : Bool := decide (r < -2 ^ 39) || decide (2 ^ 39 - 1 < r)

/-- What an accumulator update stores, and the values of OX and of the setting of SX. -/
structure AccResult where
  value : Acc40
  overflow : Bool
  saturated : Bool
deriving DecidableEq, Repr

/-- The result `r` under a saturation mode (R251 to R254, C5, C6). -/
def accResult (sat super : Bool) (r : Int) : AccResult :=
  if sat && super then
    if over39 r then
      { value := if 0 < r then 0x7FFFFFFFFF#40 else 0x8000000000#40
        overflow := over31 r, saturated := true }
    else { value := BitVec.ofInt 40 r, overflow := over31 r, saturated := false }
  else if sat then
    if over31 r then
      { value := if 0 < r then 0x007FFFFFFF#40 else 0xFF80000000#40
        overflow := false, saturated := true }
    else { value := BitVec.ofInt 40 r, overflow := false, saturated := false }
  else { value := BitVec.ofInt 40 r, overflow := over31 r, saturated := over39 r }

/-- An update that gives `r` raises ArithmeticError under the modes of `m` (R251, R440). -/
def accTraps (x : AccId) (r : Int) (m : State) : Bool :=
  (overflowTrap x m && (accResult (satOn x m) m.corcon.accsat r).overflow)
    || (m.intcon.covte && !satOn x m && over39 r)

/-- The stores of `AccUpdate(X, r)` under the modes of `m` (R251). -/
def accStore (x : AccId) (r : Int) (m s : State) : State :=
  let a := accResult (satOn x m) m.corcon.accsat r
  setAccStatus x a.overflow a.saturated (setAcc x a.value s)

/-- `AccUpdate(X, r)` (R251): the stores, then the trap where one is enabled. The modes are those of
`m`, the state in which the instruction began: a write of the same instruction to CORCON counts from
the next one (R290), and that a write back to INTCON1 does so too is a DESIGN CHOICE (log entry 63). -/
def accUpdate (x : AccId) (r : Int) (m s : State) : State :=
  if accTraps x r m then raiseArith (accStore x r m s) else accStore x r m s

/-! ## Shifter, rounding, data space write saturation (R260 to R262) -/

/-- `Shift40(v, k)` (R262): positive right, negative left, as an exact integer. -/
def shift40 (v : Acc40) (k : Int) : Int :=
  if 0 ≤ k then v.toInt / 2 ^ k.toNat else v.toInt * 2 ^ (-k).toNat

/-- Rounding increments bits 39:16 of `t` (R261). -/
def roundsUp (rnd : Bool) (t : Acc40) : Bool :=
  let lsw := (t.extractLsb' 0 16).toNat
  if rnd then decide (0x8000 ≤ lsw)
  else if lsw = 0x8000 then t.getLsbD 16
  else decide (0x8000 < lsw)

/-- `Round(t)` (R261): the increment carries into bits 39:32 (D16). -/
def roundAcc (rnd : Bool) (t : Acc40) : Acc40 := if roundsUp rnd t then t + 0x10000#40 else t

/-- `SatWrite(t)` (R260). -/
def satWrite (satdw : Bool) (t : Acc40) : Word :=
  let u := (t.extractLsb' 16 24).toInt
  if satdw && decide (0x7FFF < u) then 0x7FFF#16
  else if satdw && decide (u < -0x8000) then 0x8000#16
  else t.extractLsb' 16 16

/-- The other accumulator. -/
def AccId.other (x : AccId) : AccId :=
  match x with
  | .accA => .accB
  | .accB => .accA

/-- The value of an accumulator write back: the other accumulator rounded and saturated (R270,
D47). -/
def writeBackValue (x : AccId) (s : State) : Word :=
  satWrite s.corcon.satdw (roundAcc s.corcon.rnd (getAcc (AccId.other x) s))

/-- The address of an accumulator write back to memory, with its checks (R270, R445). -/
def writeBackEA (b : WriteBack) (s : State) : Except Stop (Word × State) :=
  match b with
  | .none | .w13 => .ok (0#16, s)
  | .w13Inc => useEA .dest 13#4 s

/-- The accumulator write back of `v`, to `ea` where it goes to memory (R270). -/
def writeBack (b : WriteBack) (ea v : Word) (s : State) : Except Stop State :=
  match b with
  | .none => .ok s
  | .w13 => .ok (setW 13#4 v s)
  | .w13Inc => memWrite .word ea v (movePtr .dest 13#4 2 s)

/-! ## Multiply instructions (R272 to R278) -/

/-- A write back of `v` to SR wins over the bits that the update of the same instruction sets: SA and SB
are clear where `v` clears them (R41, D40, log entry 58). -/
def writeBackWins (b : WriteBack) (ea v : Word) (s : State) : State :=
  if b = .w13Inc ∧ ea = 0x0042#16 then writeSr v s else s

/-- A multiply of Wm by Wn on accumulator `x`, `f` giving the result from the accumulator and the
product. Every read comes before every write, so the addresses, the fetched words, the accumulator and
the value written back are those from before the instruction (R115, R116, R494); then the pointer
modifications (R99, R116); then the data writes in the order in which R272 and R274 list them: the write
back, the fetched words, the update (log entry 23). That all addresses are formed and checked before any
read is made is a DESIGN CHOICE (log entry 64). -/
def multiplyAcc (f : Int → Int → Int) (wm wn : WReg) (x : AccId) (xd yd : DspReg)
    (px py : Option PreAccess) (b : WriteBack) (s : State) : Except Stop State := do
  let (p, t) := dspMul (getW wm s) (getW wn s) s
  requireDistinct xd yd px py
  let (ax, t) ← prefetchOptEA .x px t
  let (ay, t) ← prefetchOptEA .y py t
  let (ea, t) ← writeBackEA b t
  let (vx, t) ← prefetchOptRead .x ax t
  let (vy, t) ← prefetchOptRead .y ay t
  let r := f (getAcc x s).toInt p
  let v := writeBackValue x s
  let t ← writeBack b ea v (prefetchOptMod .y py (prefetchOptMod .x px t))
  let t := setFetched yd vy (setFetched xd vx t)
  return advance 1 (writeBackWins b ea v (accUpdate x r s t))

/-- MAC Wm*Wn (R272). -/
def execMac (m : MulPair) (a : AccId) (xd yd : DspReg) (x y : Option PreAccess) (b : WriteBack)
    (s : State) : Host.Outcome State Fault Refusal :=
  finish s (multiplyAcc (fun acc p => acc + p) (pairW m).1 (pairW m).2 a xd yd x y b s)

/-- MAC Wm*Wm (R273). -/
def execMacSquare (m : DspReg) (a : AccId) (xd yd : DspReg) (x y : Option PreAccess)
    (s : State) : Host.Outcome State Fault Refusal :=
  finish s (multiplyAcc (fun acc p => acc + p) (dspW m) (dspW m) a xd yd x y .none s)

/-- MSC Wm*Wn (R274). -/
def execMsc (m : MulPair) (a : AccId) (xd yd : DspReg) (x y : Option PreAccess) (b : WriteBack)
    (s : State) : Host.Outcome State Fault Refusal :=
  finish s (multiplyAcc (fun acc p => acc - p) (pairW m).1 (pairW m).2 a xd yd x y b s)

/-- MPY Wm*Wn (R275). -/
def execMpy (m : MulPair) (a : AccId) (xd yd : DspReg) (x y : Option PreAccess)
    (s : State) : Host.Outcome State Fault Refusal :=
  finish s (multiplyAcc (fun _ p => p) (pairW m).1 (pairW m).2 a xd yd x y .none s)

/-- MPY Wm*Wm (R275). -/
def execMpySquare (m : DspReg) (a : AccId) (xd yd : DspReg) (x y : Option PreAccess)
    (s : State) : Host.Outcome State Fault Refusal :=
  finish s (multiplyAcc (fun _ p => p) (dspW m) (dspW m) a xd yd x y .none s)

/-- MPY.N Wm*Wn (R276). -/
def execMpyN (m : MulPair) (a : AccId) (xd yd : DspReg) (x y : Option PreAccess)
    (s : State) : Host.Outcome State Fault Refusal :=
  finish s (multiplyAcc (fun _ p => -p) (pairW m).1 (pairW m).2 a xd yd x y .none s)

/-- A Euclidean distance step (R277): the square of Wm to the accumulator, the difference of the two
prefetched words to Wxd. That the X prefetch is made before the Y address is checked is a DESIGN CHOICE
(log entry 64). -/
def distance (f : Int → Int → Int) (m : DspReg) (x : AccId) (xd : DspReg) (px py : PreAccess)
    (s : State) : Except Stop State := do
  let (p, t) := dspMul (getW (dspW m) s) (getW (dspW m) s) s
  let (vx, t) ← prefetchOne .x px t
  let (vy, t) ← prefetchOne .y py t
  let t := setW (dspW xd) (vx - vy) t
  return advance 1 (accUpdate x (f (getAcc x t).toInt p) s t)

/-- ED (R277). -/
def execEd (m : DspReg) (a : AccId) (xd : DspReg) (x y : PreAccess) (s : State) :
    Host.Outcome State Fault Refusal :=
  finish s (distance (fun _ p => p) m a xd x y s)

/-- EDAC (R278). -/
def execEdac (m : DspReg) (a : AccId) (xd : DspReg) (x y : PreAccess) (s : State) :
    Host.Outcome State Fault Refusal :=
  finish s (distance (fun acc p => acc + p) m a xd x y s)

/-! ## Accumulator add, load, store, shift (R280 to R285) -/

/-- ADD Acc (R280). -/
def execAddAcc (a : AccId) (s : State) : Host.Outcome State Fault Refusal :=
  finish s (.ok (advance 1 (accUpdate a (s.acca.toInt + s.accb.toInt) s s)))

/-- A word placed in bits 31:16 of an accumulator value, sign-extended (R281). -/
def wordToAcc (v : Word) : Acc40 := (v ++ 0#16).signExtend 40

/-- ADD source,#Slit4,Acc (R281) The field Wb serves only the register offset form: DESIGN
CHOICE (log entry 56). -/
def execAddWsAcc (a : AccId) (_wb : WReg) (sh : BitVec 4) (sm : MovMode) (ws : WReg) (s : State) :
    Host.Outcome State Fault Refusal :=
  finish s do
    let (v, t) ← srcMov .word sm ws s
    return advance 1 (accUpdate a ((getAcc a t).toInt + shift40 (wordToAcc v) sh.toInt) s t)

/-- LAC source,#Slit4,Acc (R282) The field Wb serves only the register offset form: DESIGN
CHOICE (log entry 56). -/
def execLac (a : AccId) (_wb : WReg) (sh : BitVec 4) (sm : MovMode) (ws : WReg) (s : State) :
    Host.Outcome State Fault Refusal :=
  finish s do
    let (v, t) ← srcMov .word sm ws s
    return advance 1 (accUpdate a (shift40 (wordToAcc v) sh.toInt) s t)

/-- The 40-bit output of the shifter (R283). -/
def scaled (a : AccId) (sh : BitVec 4) (s : State) : Acc40 :=
  BitVec.ofInt 40 (shift40 (getAcc a s) sh.toInt)

/-- SAC Acc,#Slit4,destination (R283) The field Wb serves only the register offset form: DESIGN
CHOICE (log entry 56). -/
def execSac (a : AccId) (_wb : WReg) (sh : BitVec 4) (dm : MovMode) (wd : WReg) (s : State) :
    Host.Outcome State Fault Refusal :=
  finish s do
    let t ← dstMov .word dm wd (satWrite s.corcon.satdw (scaled a sh s)) s
    return advance 1 t

/-- SAC.R Acc,#Slit4,destination (R284) The field Wb serves only the register offset form: DESIGN
CHOICE (log entry 56). -/
def execSacR (a : AccId) (_wb : WReg) (sh : BitVec 4) (dm : MovMode) (wd : WReg) (s : State) :
    Host.Outcome State Fault Refusal :=
  finish s do
    let v := satWrite s.corcon.satdw (roundAcc s.corcon.rnd (scaled a sh s))
    let t ← dstMov .word dm wd v s
    return advance 1 t

/-- A shift of an accumulator by `k` (R285): beyond 16 bits either way it is not made, and
ArithmeticError is raised. -/
def shiftAcc (a : AccId) (k : Int) (s : State) : State :=
  advance 1 (if k < -16 ∨ 16 < k then raiseArith s
    else accUpdate a (shift40 (getAcc a s) k) s s)

/-- SFTAC Acc,#Slit6 (R285). -/
def execSftacLit (a : AccId) (lit : BitVec 6) (s : State) : Host.Outcome State Fault Refusal :=
  finish s (.ok (shiftAcc a lit.toInt s))

/-- SFTAC Acc,Wb (R285): an amount outside -32 to 31 is refused (D48). -/
def execSftacReg (a : AccId) (wb : WReg) (s : State) : Host.Outcome State Fault Refusal :=
  let k := (getW wb s).toInt
  finish s (if k < -32 ∨ 31 < k then .error (.refused .sftacAmount)
    else .ok (shiftAcc a k s))

end Sys2Proof.Machine
end

