-- ==== Sys2Proof/Machine/Flow.lean ====
section
/-! DEFINITION. The meanings of the program flow instructions (R322 to R340). -/

namespace Sys2Proof.Machine

/-- The target of CALL and GOTO: `n2[6:0] : n1[14:0] : 0` (R147). -/
def absoluteTarget (n1 : BitVec 15) (n2 : BitVec 7) : PAddr := n2 ++ n1 ++ 0#1

/-- The target of BRA and RCALL: `(pc + 2) + 2 * signed(n)` (R147). -/
def relativeTarget (pc : PAddr) (n : BitVec 16) : PAddr :=
  ahead 1 pc + (n.signExtend 22 ++ 0#1)

/-- CALL Expr (R322): the address of the next instruction is pushed, low word first. -/
def execCall (n1 : BitVec 15) (n2 : BitVec 7) (s : State) : Host.Outcome State Fault Refusal :=
  finish s do
    let t ← pushReturn (ahead 2 s.pc) s
    return setPc (absoluteTarget n1 n2) t

/-- RCALL Expr (R323). -/
def execRcall (n : BitVec 16) (s : State) : Host.Outcome State Fault Refusal :=
  finish s do
    let t ← pushReturn (ahead 1 s.pc) s
    return setPc (relativeTarget s.pc n) t

/-- GOTO Expr (R325). -/
def execGoto (n1 : BitVec 15) (n2 : BitVec 7) (s : State) : Host.Outcome State Fault Refusal :=
  .next (setPc (absoluteTarget n1 n2) s)

/-- BRA Expr (R326). -/
def execBra (n : BitVec 16) (s : State) : Host.Outcome State Fault Refusal :=
  .next (setPc (relativeTarget s.pc n) s)

/-- RETURN (R330). -/
def execRet (s : State) : Host.Outcome State Fault Refusal := finish s (popReturn s)

/-- RETLW #lit10,Wn (R331): the return, with the literal into Wn; the pops read before that write (R115,
R116, log entry 66). W15 is refused. -/
def execRetlw (sz : Size) (lit : BitVec 10) (wd : WReg) (s : State) :
    Host.Outcome State Fault Refusal :=
  finish s (if wd = 15#4 then .error (.refused .retlwStack)
    else do
      let t ← popReturn s
      return setWSized sz wd (lit.setWidth 16) t)

/-- RETFIE (R332). -/
def execRetfie (s : State) : Host.Outcome State Fault Refusal := finish s (returnFromException s)

/-- NOP (R340). -/
def execNop (s : State) : Host.Outcome State Fault Refusal := .next (advance 1 s)

end Sys2Proof.Machine
end

