-- ==== Sys2Proof/Machine/Loop.lean ====
section
/-! DEFINITION. The meanings of REPEAT and DO (R362, R363, R372, R373). What the step does at each
iteration is in `Sequencer.lean`. -/

namespace Sys2Proof.Machine

/-- A REPEAT with the count `n` (R362). -/
def startRepeat (n : BitVec 14) (s : State) : State :=
  advance 1 { s with rcount := n, sr := { s.sr with ra := n != 0#14 }, rptFresh := true }

/-- REPEAT #lit14 (R362). -/
def execRepeatLit (lit : BitVec 14) (s : State) : Host.Outcome State Fault Refusal :=
  .next (startRepeat lit s)

/-- REPEAT Wn (R363): bits 15:14 of Wn must be 0 (D17). -/
def execRepeatReg (wn : WReg) (s : State) : Host.Outcome State Fault Refusal :=
  finish s (if (getW wn s).extractLsb' 14 2 = 0#2 then
      .ok (startRepeat ((getW wn s).setWidth 14) s)
    else .error (.refused .repeatCount))

/-- The address of the last instruction of a DO loop: its first instruction's, moved by the loop
length `n` in instruction words (R372, D34). -/
def loopEnd (start : PAddr) (n : BitVec 16) : PAddr := start + (n.signExtend 22 ++ 0#1)

/-- The DO shadows after a DO: the outer loop's registers, or at two loops and more a free choice
between those and the old content (R372, R376, log entry 47). -/
def saveLoop (s : State) : State :=
  if s.corcon.dl.toNat ≤ 1 then { s with loopShadow := s.loop }
  else
    let (b, t) := drawBit s
    { t with loopShadow := if b then t.loop else t.loopShadow }

/-- A DO with the count `c` and the loop length `n` (R372). -/
def startDo (c : BitVec 14) (n : BitVec 16) (s : State) : Except Stop State :=
  let start := ahead 2 s.pc
  let stop := loopEnd start n
  if doLengthWf n = false then .error (.refused .doLength)
  else if start.getLsbD 22 || stop.getLsbD 22 then .error (.refused .doAddress)
  else if s.corcon.dl = 7#3 then .error (.refused .doNesting)
  else
    let t := saveLoop s
    .ok (advance 2 { t with
      loop := { start := start.setWidth 22, stop := stop.setWidth 22, count := c }
      corcon := { t.corcon with dl := t.corcon.dl + 1#3 } })

/-- DO #lit14,Expr (R372). -/
def execDoLit (lit : BitVec 14) (n : BitVec 16) (s : State) : Host.Outcome State Fault Refusal :=
  finish s (startDo lit n s)

/-- DO Wn,Expr (R373): the two most significant bits of Wn are not used. -/
def execDoReg (wn : WReg) (n : BitVec 16) (s : State) : Host.Outcome State Fault Refusal :=
  finish s (startDo ((getW wn s).setWidth 14) n s)

end Sys2Proof.Machine
end

