-- ==== Sys2Proof/Machine/Move.lean ====
section
/-! DEFINITION. The meanings of the move and stack instructions (R160 to R186). -/

namespace Sys2Proof.Machine

/-- MOV Ws,Wd (R160); PUSH and POP are this with W15 (R172, R173). The field Wb serves only the
register offset form, which is refused before either operand is evaluated, and is ignored in the
others: DESIGN CHOICE (log entry 56). -/
def execMovWsWd (sz : Size) (_wb : WReg) (dm : MovMode) (wd : WReg) (sm : MovMode) (ws : WReg)
    (s : State) : Host.Outcome State Fault Refusal :=
  finish s do
    let sm ← plainMode sm
    let dm ← plainMode dm
    let (v, t) ← srcOperand sz sm ws s
    let t ← dstOperand sz dm wd v t
    return advance 1 t

/-- MOV f,Wnd (R163). -/
def execMovFWnd (f : BitVec 15) (wd : WReg) (s : State) : Host.Outcome State Fault Refusal :=
  finish s do
    let (v, t) ← memRead .word (wordFileAddr f) s
    return advance 1 (setW wd v t)

/-- MOV WREG,f (R164). -/
def execMovWregF (sz : Size) (f : BitVec 13) (s : State) : Host.Outcome State Fault Refusal :=
  finish s do
    let t ← memWrite sz (fileAddr f) (narrow sz (getW 0#4 s)) s
    return advance 1 t

/-- MOV #lit16,Wnd (R165). -/
def execMovLit16Wnd (lit : Word) (wd : WReg) (s : State) : Host.Outcome State Fault Refusal :=
  .next (advance 1 (setW wd lit s))

/-- MOV.D source,Wnd (R170); the three-bit field is half the even register's number. -/
def execMovdLoad (wd : BitVec 3) (sm : Mode) (ws : WReg) (s : State) :
    Host.Outcome State Fault Refusal :=
  finish s do
    let (v, t) ← srcDouble sm ws s
    return advance 1 (setPair (wd ++ 0#1) v t)

/-- MOV.D Wns,destination (R171). -/
def execMovdStore (dm : Mode) (wd : WReg) (ws : BitVec 3) (s : State) :
    Host.Outcome State Fault Refusal :=
  finish s do
    let t ← dstDouble dm wd (getPair (ws ++ 0#1) s) s
    return advance 1 t

/-- What PUSH.S saves (R175). -/
def shadowOf (s : State) : Shadow where
  w0 := getW 0#4 s
  w1 := getW 1#4 s
  w2 := getW 2#4 s
  w3 := getW 3#4 s
  n := s.sr.n
  ov := s.sr.ov
  z := s.sr.z
  c := s.sr.c
  dc := s.sr.dc

/-- PUSH.S (R175). -/
def execPushS (s : State) : Host.Outcome State Fault Refusal :=
  .next (advance 1 { s with shadow := shadowOf s })

/-- The five flags POP.S restores (R176). -/
def restoreFlags (h : Shadow) (s : State) : State :=
  { s with sr := { s.sr with n := h.n, ov := h.ov, z := h.z, c := h.c, dc := h.dc } }

/-- POP.S (R176): four word writes and five flags; the shadows keep their values. -/
def execPopS (s : State) : Host.Outcome State Fault Refusal :=
  let t := setW 3#4 s.shadow.w3 (setW 2#4 s.shadow.w2 (setW 1#4 s.shadow.w1
    (setW 0#4 s.shadow.w0 s)))
  .next (advance 1 (restoreFlags s.shadow t))

/-- LNK #lit14 (R180): the literal is even, its field is the literal's bits 13:1 (R147). -/
def execLnk (lit : BitVec 13) (s : State) : Host.Outcome State Fault Refusal :=
  finish s do
    let t ← push .dest (getW 14#4 s) s
    let t := setW 14#4 (getW 15#4 t) t
    return advance 1 (setW 15#4 (getW 15#4 t + (lit ++ 0#1).setWidth 16) t)

/-- ULNK (R181). -/
def execUlnk (s : State) : Host.Outcome State Fault Refusal :=
  finish s do
    let (v, t) ← pop (setW 15#4 (getW 14#4 s) s)
    return advance 1 (setW 14#4 v t)

/-- SE source,Wnd (R185): a byte operand, sign-extended. -/
def execSe (wd : WReg) (sm : Mode) (ws : WReg) (s : State) : Host.Outcome State Fault Refusal :=
  finish s do
    let (b, t) ← srcOperand .byte sm ws s
    return advance 1 (setSignExtendFlags b (setW wd ((b.setWidth 8).signExtend 16) t))

/-- ZE source,Wnd (R186): a byte operand, zero-extended. -/
def execZe (wd : WReg) (sm : Mode) (ws : WReg) (s : State) : Host.Outcome State Fault Refusal :=
  finish s do
    let (b, t) ← srcOperand .byte sm ws s
    return advance 1 (setZeroExtendFlags b (setW wd b t))

end Sys2Proof.Machine
end

