-- ==== Sys2Proof/Machine/System.lean ====
section
/-! DEFINITION. The meanings of DISI, PWRSV, RESET and the table instructions (R400 to R405). -/

namespace Sys2Proof.Machine

/-- DISI #lit14 (R400). -/
def execDisi (lit : BitVec 14) (s : State) : Host.Outcome State Fault Refusal :=
  .next (advance 1 (note (fun a => { a with wroteDisi := true }) { s with disicnt := lit }))

/-- PWRSV #lit1 (R402): the state the run ends in; the step after it is `Halted` (log entry 27). -/
def execPwrsv (lit : BitVec 1) (s : State) : Host.Outcome State Fault Refusal :=
  .next (advance 1 { s with power := if lit = 0#1 then .sleep else .idle })

/-- RESET (R403): the reset of R470. -/
def execReset (s : State) : Host.Outcome State Fault Refusal := .next (deviceReset s)

/-- TBLRDL (R405): "The model refuses all four". -/
def execTblrdl (_sz : Size) (_dm : Mode) (_wd : WReg) (_sm : Mode) (_ws : WReg) (_s : State) :
    Host.Outcome State Fault Refusal :=
  .refused .tableRead

/-- TBLRDH (R405). -/
def execTblrdh (_sz : Size) (_dm : Mode) (_wd : WReg) (_sm : Mode) (_ws : WReg) (_s : State) :
    Host.Outcome State Fault Refusal :=
  .refused .tableRead

/-- TBLWTL (R405). -/
def execTblwtl (_sz : Size) (_dm : Mode) (_wd : WReg) (_sm : Mode) (_ws : WReg) (_s : State) :
    Host.Outcome State Fault Refusal :=
  .refused .tableWrite

/-- TBLWTH (R405). -/
def execTblwth (_sz : Size) (_dm : Mode) (_wd : WReg) (_sm : Mode) (_ws : WReg) (_s : State) :
    Host.Outcome State Fault Refusal :=
  .refused .tableWrite

end Sys2Proof.Machine
end

