-- ==== Sys2Proof/Machine/Dispatch.lean ====
section
/-! DEFINITION. One arm per constructor of `Instr`: a direct call of its meaning. -/

namespace Sys2Proof.Machine

/-- What an instruction does: its own rule, the pc's advance included (R10). -/
def exec (i : Instr) (s : State) : Host.Outcome State Fault Refusal :=
  match i with
  | .movWsWd sz wb dm wd sm ws => Sys2Proof.Machine.execMovWsWd sz wb dm wd sm ws s
  | .movFWnd f wd => Sys2Proof.Machine.execMovFWnd f wd s
  | .movWregF sz f => Sys2Proof.Machine.execMovWregF sz f s
  | .movLit16Wnd lit wd => Sys2Proof.Machine.execMovLit16Wnd lit wd s
  | .movdLoad wd sm ws => Sys2Proof.Machine.execMovdLoad wd sm ws s
  | .movdStore dm wd ws => Sys2Proof.Machine.execMovdStore dm wd ws s
  | .pushS => Sys2Proof.Machine.execPushS s
  | .popS => Sys2Proof.Machine.execPopS s
  | .lnk lit => Sys2Proof.Machine.execLnk lit s
  | .ulnk => Sys2Proof.Machine.execUlnk s
  | .se wd sm ws => Sys2Proof.Machine.execSe wd sm ws s
  | .ze wd sm ws => Sys2Proof.Machine.execZe wd sm ws s
  | .addWbWsWd sz wb dm wd sm ws => Sys2Proof.Machine.execAddWbWsWd sz wb dm wd sm ws s
  | .addF sz d f => Sys2Proof.Machine.execAddF sz d f s
  | .bset bit f => Sys2Proof.Machine.execBset bit f s
  | .btsc bit f => Sys2Proof.Machine.execBtsc bit f s
  | .asrLit wb wd lit => Sys2Proof.Machine.execAsrLit wb wd lit s
  | .asrReg wb wd ws => Sys2Proof.Machine.execAsrReg wb wd ws s
  | .lsrLit wb wd lit => Sys2Proof.Machine.execLsrLit wb wd lit s
  | .lsrReg wb wd ws => Sys2Proof.Machine.execLsrReg wb wd ws s
  | .slLit wb wd lit => Sys2Proof.Machine.execSlLit wb wd lit s
  | .slReg wb wd ws => Sys2Proof.Machine.execSlReg wb wd ws s
  | .mulUU wb wd sm ws => Sys2Proof.Machine.execMulUU wb wd sm ws s
  | .mulUS wb wd sm ws => Sys2Proof.Machine.execMulUS wb wd sm ws s
  | .mulSU wb wd sm ws => Sys2Proof.Machine.execMulSU wb wd sm ws s
  | .mulSS wb wd sm ws => Sys2Proof.Machine.execMulSS wb wd sm ws s
  | .mulF sz f => Sys2Proof.Machine.execMulF sz f s
  | .mac m a xd yd x y awb => Sys2Proof.Machine.execMac m a xd yd x y awb s
  | .macSquare m a xd yd x y => Sys2Proof.Machine.execMacSquare m a xd yd x y s
  | .msc m a xd yd x y awb => Sys2Proof.Machine.execMsc m a xd yd x y awb s
  | .mpy m a xd yd x y => Sys2Proof.Machine.execMpy m a xd yd x y s
  | .mpySquare m a xd yd x y => Sys2Proof.Machine.execMpySquare m a xd yd x y s
  | .mpyN m a xd yd x y => Sys2Proof.Machine.execMpyN m a xd yd x y s
  | .ed m a xd x y => Sys2Proof.Machine.execEd m a xd x y s
  | .edac m a xd x y => Sys2Proof.Machine.execEdac m a xd x y s
  | .addAcc a => Sys2Proof.Machine.execAddAcc a s
  | .addWsAcc a wb sh sm ws => Sys2Proof.Machine.execAddWsAcc a wb sh sm ws s
  | .lac a wb sh sm ws => Sys2Proof.Machine.execLac a wb sh sm ws s
  | .sac a wb sh dm wd => Sys2Proof.Machine.execSac a wb sh dm wd s
  | .sacR a wb sh dm wd => Sys2Proof.Machine.execSacR a wb sh dm wd s
  | .sftacLit a lit => Sys2Proof.Machine.execSftacLit a lit s
  | .sftacReg a wb => Sys2Proof.Machine.execSftacReg a wb s
  | .divSW t v wn => Sys2Proof.Machine.execDivSW t v wn s
  | .divSD t v wn => Sys2Proof.Machine.execDivSD t v wn s
  | .divUW t v wn => Sys2Proof.Machine.execDivUW t v wn s
  | .divUD t v wn => Sys2Proof.Machine.execDivUD t v wn s
  | .divF wm wn => Sys2Proof.Machine.execDivF wm wn s
  | .call n1 n2 => Sys2Proof.Machine.execCall n1 n2 s
  | .rcall n => Sys2Proof.Machine.execRcall n s
  | .goto n1 n2 => Sys2Proof.Machine.execGoto n1 n2 s
  | .bra n => Sys2Proof.Machine.execBra n s
  | .ret => Sys2Proof.Machine.execRet s
  | .retlw sz lit wd => Sys2Proof.Machine.execRetlw sz lit wd s
  | .retfie => Sys2Proof.Machine.execRetfie s
  | .nop => Sys2Proof.Machine.execNop s
  | .repeatLit lit => Sys2Proof.Machine.execRepeatLit lit s
  | .repeatReg wn => Sys2Proof.Machine.execRepeatReg wn s
  | .doLit lit n => Sys2Proof.Machine.execDoLit lit n s
  | .doReg wn n => Sys2Proof.Machine.execDoReg wn n s
  | .disi lit => Sys2Proof.Machine.execDisi lit s
  | .pwrsv lit => Sys2Proof.Machine.execPwrsv lit s
  | .reset => Sys2Proof.Machine.execReset s
  | .tblrdl sz dm wd sm ws => Sys2Proof.Machine.execTblrdl sz dm wd sm ws s
  | .tblrdh sz dm wd sm ws => Sys2Proof.Machine.execTblrdh sz dm wd sm ws s
  | .tblwtl sz dm wd sm ws => Sys2Proof.Machine.execTblwtl sz dm wd sm ws s
  | .tblwth sz dm wd sm ws => Sys2Proof.Machine.execTblwth sz dm wd sm ws s

end Sys2Proof.Machine
end

