-- ==== Sys2Proof/Machine/Sequencer.lean ====
section
/-! DEFINITION. What the step does around an instruction: what is presented at a boundary and which
exception is taken (R427), the fetch (R110), the REPEAT and DO rules (R364 to R381), the DISI
countdown with the cycle counts it needs (R400, R501 to R506), and the record of what was executed. -/

namespace Sys2Proof.Machine

/-! ## The boundary (R427, R448) -/

/-- What is presented when the input stream gives nothing (R426). -/
def Boundary.silent : Boundary where
  reset := false
  irqs := []

/-- What the outside world presents at this boundary. -/
def presented (s : State) : Boundary := s.inputs.headD Boundary.silent

/-- The state with this boundary's input taken, and no record yet of the step under way. -/
def openBoundary (s : State) : State := { s with inputs := s.inputs.tail, cur := Access.quiet }

/-- The pending trap that is taken: the one of the higher level, equal levels by a free choice (R427,
log entry 16). -/
def pendingTrap (s : State) : Option (Exception × State) :=
  if s.stackPending && s.arithPending then
    if arithLevel s < stackLevel s then some (.stackError, s)
    else if stackLevel s < arithLevel s then some (.arithmeticError, s)
    else
      let (b, t) := drawBit s
      some (if b then .stackError else .arithmeticError, t)
  else if s.stackPending then some (.stackError, s)
  else if s.arithPending then some (.arithmeticError, s)
  else none

/-- An interrupt request is accepted: its level is above the CPU's, and DISI does not hold it off
(R400, R427). -/
def accepts (s : State) (q : Irq) : Bool :=
  decide (cpuLevel s < q.level.toNat) && !(s.disicnt != 0#14 && decide (q.level.toNat ≤ 6))

/-- The highest level among requests. -/
def topLevel (qs : List Irq) : Nat := qs.foldr (fun q n => max q.level.toNat n) 0

/-- The accepted requests of the highest level. -/
def contenders (b : Boundary) (s : State) : List Irq :=
  let qs := b.irqs.filter (accepts s)
  qs.filter fun q => q.level.toNat == topLevel qs

/-- The interrupt that is taken; among several of one level, a free choice (R427, log entry 17). -/
def acceptedIrq (b : Boundary) (s : State) : Option (Exception × State) :=
  match contenders b s with
  | [] => none
  | [q] => some (.interrupt q, s)
  | q :: r :: qs =>
    let (k, t) := drawBelow (qs.length + 2) s
    some (.interrupt ((q :: r :: qs).getD k q), t)

/-- The exception that is taken at a boundary, traps first (R427). -/
def acceptedException (b : Boundary) (s : State) : Option (Exception × State) :=
  match pendingTrap s with
  | some e => some e
  | none => acceptedIrq b s

/-! ## Fetch (R110, R131, R148) -/

/-- The instruction at `a`. -/
def instrAt (a : PAddr) (s : State) : Except Refusal Instr :=
  match progRead a s with
  | none => .error .fetchOutside
  | some w => match decode w (progRead (ahead 1 a) s) with
    | .ok i => .ok i
    | .error e => .error (.illegalWord e)

/-- The instruction at the pc. -/
def fetch (s : State) : Except Refusal Instr := instrAt s.pc s

/-! ## REPEAT (R364, R366) -/

/-- REPEAT, in either form. -/
def isRepeat : Instr → Bool
  | .repeatLit _ | .repeatReg _ => true
  | _ => false

/-- DO, in either form. -/
def isDo : Instr → Bool
  | .doLit _ _ | .doReg _ _ => true
  | _ => false

/-- Program flow control (R366 item 1, R380 items 1 and 2). -/
def isFlow : Instr → Bool
  | .call _ _ | .rcall _ | .goto _ _ | .bra _ | .ret | .retlw _ _ _ | .retfie | .btsc _ _ => true
  | _ => false

/-- The forbidden REPEAT targets (R366). -/
def forbiddenTarget (i : Instr) : Bool :=
  isFlow i || isRepeat i || isDo i || match i with
    | .disi _ | .ulnk | .lnk _ | .pwrsv _ | .reset | .movdLoad _ _ _ | .movdStore _ _ _ => true
    | _ => false

/-- The instruction about to run is a REPEAT target: RA is set, or a REPEAT of any count stands before it
and it has not run since, whatever exceptions were entered between the two (R366, log entry 18). -/
def isTarget (s : State) : Bool := s.sr.ra || s.rptFresh

/-- The instruction that follows the one at the pc, of one word, is a forbidden REPEAT target (R366). -/
def nextForbidden (s : State) : Bool :=
  match instrAt (ahead 1 s.pc) s with
  | .ok i => forbiddenTarget i
  | .error _ => false

/-- What is refused before an instruction runs: a REPEAT that a forbidden target follows, whatever comes
between the two, and a forbidden target that a return makes one (R366, log entry 18). -/
def preCheck (i : Instr) (s : State) : Option Refusal :=
  if isTarget s && forbiddenTarget i || isRepeat i && nextForbidden s then some .repeatTarget else none

/-- `rpt_fresh <- 0` after any instruction other than REPEAT (R364). -/
def clearFresh (i : Instr) (t : State) : State :=
  if isRepeat i then t else { t with rptFresh := false }

/-- The REPEAT rule of the step (R364): `s` is the state the instruction began in, `t` the one its
rule left. -/
def repeatRule (i : Instr) (s t : State) : State :=
  let u := clearFresh i t
  if isRepeat i || !s.sr.ra then u
  else if u.rcount = 0#14 then setRa false u
  else { u with rcount := u.rcount - 1#14, pc := s.pc }

/-! ## DO (R374, R375, R380, R381) -/

/-- The forbidden last instructions of a DO loop (R380). -/
def forbiddenLast (i : Instr) : Bool :=
  isFlow i || isRepeat i || isDo i || match i with
    | .disi _ => true
    | _ => false

/-- A DO loop is active and `a` is its end address (R374). -/
def atLoopEnd (s : State) (a : PAddr) : Bool := loopActive s && a == (0#1 ++ s.loop.stop)

/-- An instruction before the last of a DO loop did `p`: `k` is 0 for the one just before. -/
def didBefore (p : Access → Bool) (k : Nat) (s : State) : Bool :=
  match s.hist[k]? with
  | none => false
  | some e => p e.access

/-- A write that R381 forbids near the end of a DO loop was made: to DCOUNT, DOSTART or DOEND by the last
instruction or one of the two before it, or to an interrupt priority by the second or the third
before it. The quotation and the refuse sentence of R381 count differently, and both are taken (log
entry 19). -/
def nearEndWrite (s t : State) : Bool :=
  t.cur.wroteLoop || didBefore (fun a => a.wroteLoop) 0 s || didBefore (fun a => a.wroteLoop) 1 s
    || didBefore (fun a => a.wrotePriority) 1 s || didBefore (fun a => a.wrotePriority) 2 s

/-- What is refused at the end of a DO loop (R380, R381): a loop of one instruction too, which data writes
to DOSTART and DOEND can make (log entry 67). -/
def lastCheck (i : Instr) (s t : State) : Option Refusal :=
  if forbiddenLast i || isTarget s then some .doLast
  else if t.loop.start = t.loop.stop then some .doLength
  else if nearEndWrite s t then some .doHazard
  else none

/-- DO loop termination (R375): `a` is the address of the last instruction. DCOUNT is left at 0 or
at its underflowed value, a free choice; a ripe request for early termination is used up (log
entry 21). -/
def endLoop (a : PAddr) (t : State) : Except Refusal State :=
  let dl := t.corcon.dl
  let edt := if t.edt = .ripe then EdtRequest.none else t.edt
  if dl = 2#3 then
    if a = 0#1 ++ t.loopShadow.stop then .error .doSharedEnd
    else .ok { t with loop := t.loopShadow, corcon := { t.corcon with dl := dl - 1#3 }, edt := edt }
  else
    let (b, u) := drawBit t
    .ok { u with
      loop := { u.loop with count := if b then 0x3FFF#14 else 0#14 }
      corcon := { u.corcon with dl := dl - 1#3 }
      edt := edt }

/-- The loop-end rule of the step, at the last instruction of a DO loop (R374). -/
def loopDecision (a : PAddr) (t : State) : Except Refusal State :=
  if t.loop.count = 0#14 ∨ t.edt = .ripe then endLoop a t
  else .ok { t with
    loop := { t.loop with count := t.loop.count - 1#14 }
    pc := 0#1 ++ t.loop.start }

/-- The DO rule of the step (R374). The restrictions are checked against the loop registers before
the instruction too, so that a DO or a write to DOEND at the loop end is caught (R380, R381). -/
def doRule (i : Instr) (s t : State) : Except Refusal State :=
  if atLoopEnd s s.pc || atLoopEnd t s.pc then
    match lastCheck i s t with
    | some r => .error r
    | none => if atLoopEnd t s.pc then loopDecision s.pc t else .ok t
  else .ok t

/-! ## Cycles and DISI (R400, R501 to R506) -/

/-- The skip passed over a two-word instruction (R335, R503). A word that is no instruction, or that is
not implemented, counts as one word: DESIGN CHOICE (log entry 59). -/
def skipsTwoWords (s : State) : Bool :=
  match instrAt (ahead 1 s.pc) s with
  | .ok i => i.words == 2
  | .error _ => false

/-- An instruction has skipped the next one: BTSC left the pc two words on (R216). -/
def skipped (i : Instr) (s t : State) : Bool :=
  match i with
  | .btsc _ _ => t.pc == ahead 2 s.pc
  | _ => false

/-- The base count of an instruction (R501 to R505). -/
def baseCycles (i : Instr) (s t : State) : Nat :=
  match i with
  | .movdLoad _ _ _ | .movdStore _ _ _ => 2
  | .call _ _ | .rcall _ | .goto _ _ | .bra _ | .doLit _ _ | .doReg _ _ => 2
  | .tblrdl _ _ _ _ _ | .tblrdh _ _ _ _ _ | .tblwtl _ _ _ _ _ | .tblwth _ _ _ _ _ => 2
  | .ret | .retlw _ _ _ | .retfie => 3
  | .btsc _ _ => if skipped i s t then (if skipsTwoWords s then 3 else 2) else 1
  | .nop => if s.skipNops.contains s.pc then 0 else 1
  | _ => 1

/-- A stall precedes the instruction: the one before it modified a register from which it formed a
source address, and no exception was entered between them (R481, R506, log entry 20). -/
def stalls (s t : State) : Bool :=
  s.adjacent && previously (fun e => e.access.modified.any fun n => t.cur.sourceEA.contains n) s

/-- The PSV read costs time: not inside a REPEAT loop, but on its first iteration and on the first
one after a return from an exception (R108, R506). -/
def psvCosts (s t : State) : Bool :=
  t.cur.psvRead && (!s.sr.ra || s.rptFresh || previously (fun e => e.instr == .retfie) s)

/-- The cycles of a step, the PSV penalty apart. -/
def plainCycles (i : Instr) (s t : State) : Nat :=
  baseCycles i s t + if stalls s t then 1 else 0

/-- The countdown of DISICNT (R400): `t` is the state the instruction's rule left, `u` the one the
loop rules left. The PSV penalty is a free choice of 1 or 2 (log entry 26). -/
def countDisi (i : Instr) (s t u : State) : State :=
  if u.disicnt = 0#14 ∨ t.cur.wroteDisi then u
  else if psvCosts s t then
    let (k, v) := drawBelow 2 u
    { v with disicnt := BitVec.ofNat 14 (v.disicnt.toNat - (plainCycles i s t + 1 + k)) }
  else { u with disicnt := BitVec.ofNat 14 (u.disicnt.toNat - plainCycles i s t) }

/-! ## The end of the step -/

/-- The second words whose NOPs take no cycle: one more after a skip over a two-word instruction, one
less once the instruction at its address has run (R503, log entry 25). -/
def nextSkipNops (i : Instr) (s t : State) : List PAddr :=
  let l := s.skipNops.erase s.pc
  if skipped i s t && skipsTwoWords s then ahead 2 s.pc :: l else l

/-- The REPEAT targets left behind by exceptions, less the one that has just run (log entry 55). -/
def nextTargets (s : State) : List (PAddr × Word) :=
  s.targets.filter fun x => x != (s.pc, getW 15#4 s)

/-- The record of the executed instruction. -/
def record (i : Instr) (s t u : State) : State :=
  { u with
    hist := { instr := i, access := t.cur } :: s.hist.take 2
    adjacent := true
    targets := nextTargets s
    skipNops := nextSkipNops i s t }

/-- The step leaves W15 below 0x0800 with no address formed from it (R432, log entry 35). -/
def belowFloor (t u : State) : Bool :=
  decide ((getW 15#4 u).toNat < Config.ramBase) && !t.cur.stackEA

/-- What follows an instruction's own rule (R10): `s` is the state it began in, `t` the one its rule
left. A reset ends the step by itself (R470). -/
def complete (i : Instr) (s t : State) : Except Refusal State :=
  if t.cur.reset then .ok t
  else do
    let u ← doRule i s (repeatRule i s t)
    let u := record i s t (countDisi i s t { u with edt := ageEdt u.edt })
    if belowFloor t u then .error .stackFloor else .ok u

/-- An instruction run as part of a step that began in `s0`. -/
def runInstr (i : Instr) (s0 : State) : Host.Outcome State Fault Refusal :=
  let s := resumeTarget s0
  match preCheck i s with
  | some r => .refused r
  | none => match exec i s with
    | .next t => match complete i s t with
      | .ok u => .next u
      | .error r => .refused r
    | .fault f => .fault f
    | .refused r => .refused r

end Sys2Proof.Machine
end

