-- ==== Sys2Proof/Machine/Step.lean ====
section
/-! DEFINITION. One step of the machine (R10), and the placing of an instruction where the next step
fetches it. -/

namespace Sys2Proof.Machine

/-- One step: a reset, an exception entry or an instruction (R10, R427). After PWRSV the run is over
(R402, R478). -/
def step (s : State) : Host.Outcome State Fault Refusal :=
  if s.power ≠ .run then .fault .halted
  else if (presented s).reset then .next (deviceReset (openBoundary s))
  else match acceptedException (presented s) (openBoundary s) with
    | some (e, t) => finish t (takeException e t)
    | none => match fetch (openBoundary s) with
      | .error r => .refused r
      | .ok i => runInstr i (openBoundary s)

/-- `s` with the instruction whose bits are `w` stored at the pc, in the two words the longest
instruction takes, and nothing at the next boundary that keeps the step from running it (log
entry 4). -/
def State.withFetchWord (s : State) (nbits w : Nat) : State :=
  let ws := tableWords nbits w
  { s with
    prog := putCell (putCell s.prog (ahead 1 s.pc).toNat ws.2) s.pc.toNat ws.1
    power := .run
    stackPending := false
    arithPending := false
    inputs := match s.inputs with
      | [] => []
      | _ :: bs => Boundary.silent :: bs }

end Sys2Proof.Machine
end

