-- ==== Sys2Proof/Safety.lean ====
section
/-! DEFINITION. What counts as a proper state (`Inv`), the spec's end of a run (R478), and the terms
the statements use for operands: when an operand is ready, what value it has, and the state that
reading or writing it leaves, each given by rule, without the refusals and traps. -/

namespace Sys2Proof.Machine

/-! ## The invariant -/

/-- Bit 0 of the stored fixed-bit registers (R24, R31, R45, R54, R56). -/
def FixedBits (s : State) : Prop :=
  (getW 15#4 s).getLsbD 0 = false ∧ s.pc.getLsbD 0 = false ∧ s.splim.getLsbD 0 = false
    ∧ s.loop.start.getLsbD 0 = false ∧ s.loop.stop.getLsbD 0 = false
    ∧ s.loopShadow.start.getLsbD 0 = false ∧ s.loopShadow.stop.getLsbD 0 = false
    ∧ s.xmodsrt.getLsbD 0 = false ∧ s.ymodsrt.getLsbD 0 = false
    ∧ s.xmodend.getLsbD 0 = true ∧ s.ymodend.getLsbD 0 = true

/-- MODCON's unimplemented bits 13:12 are 0 (R55). -/
def ModconImplemented (s : State) : Prop :=
  s.modcon.getLsbD 12 = false ∧ s.modcon.getLsbD 13 = false

/-- A divide under way has made between 1 and 17 of its 18 executions (R307). -/
def DivideUnderWay (s : State) : Prop :=
  match s.dv with
  | none => True
  | some r => 1 ≤ r.iter ∧ r.iter ≤ 17

/-- The invariant of every step: the memory has its canonical form, the fixed bits read as the spec
fixes them, unimplemented bits are 0, and a divide under way is within its executions. -/
structure Inv (s : State) : Prop where
  memory : Memory.wf s.ram = true
  fixed : FixedBits s
  modcon : ModconImplemented s
  divide : DivideUnderWay s
  history : s.hist.length ≤ 3

/-- `Done` (R478): the next instruction is a branch to itself outside any REPEAT, with no exception
taken at this boundary. A branch right after a REPEAT #0 is the forbidden target of that REPEAT, also
where an exception came between the two and has been returned from, so no end of a run: DESIGN CHOICE
(log entry 28). -/
def AtDone (s : State) : Prop :=
  s.power = .run ∧ (presented s).reset = false
    ∧ acceptedException (presented s) (openBoundary s) = none
    ∧ isTarget (resumeTarget (openBoundary s)) = false
    ∧ fetch (openBoundary s) = .ok (.bra 0xFFFF#16)

/-! ## Data accesses -/

/-- A data read that is made: aligned, of something that can be read (R96). -/
def readable (sz : Size) (a : Word) (s : State) : Bool :=
  !misaligned sz a && match regionOf sz a s with
    | .core => (readHazard sz a s).isNone
    | .intcon | .storage | .readOnly | .free => true
    | .psv => (findCell s.prog (psvAddr a s).toNat).isSome
    | .sfr | .absent => false

/-- The value of a data read that is made (R96, R107). -/
def readVal (sz : Size) (a : Word) (s : State) : Word :=
  match regionOf sz a s with
  | .core => accessWord sz a (readReg (coreRegAt a) s)
  | .intcon => accessWord sz a (intconWord s)
  | .free => accessWord sz a (drawWord s).1
  | .psv => accessWord sz a (((findCell s.prog (psvAddr a s).toNat).getD 0#24).extractLsb' 0 16)
  | .sfr | .storage | .readOnly | .absent => storageRead sz a s

/-- A data write that is made (R97). -/
def writable (sz : Size) (a : Word) (s : State) : Bool :=
  !misaligned sz a && match regionOf sz a s with
    | .core => (writeHazard a s).isNone
    | .intcon | .storage | .readOnly | .free => true
    | .psv | .sfr | .absent => false

/-- What a data write that is made changes (R97). -/
def written (sz : Size) (a : Word) (v : Word) (s : State) : State :=
  match regionOf sz a s with
  | .core =>
    writeReg (coreRegAt a) (sz == .word) (mergeWrite sz a v (readReg (coreRegAt a) s)) s
  | .intcon => writeIntcon (mergeWrite sz a v (intconHeld s)) s
  | .storage => storageWrite sz a v s
  | .readOnly | .free | .psv | .sfr | .absent => s

/-- `b` is none of the bytes of an access of size `sz` at `a`. -/
def outside (sz : Size) (a : Word) (b : Nat) : Prop :=
  b ≠ a.toNat ∧ (sz = .word → b ≠ (a + 1#16).toNat)

/-- Every byte of data memory reads in `t` as in `s`. -/
def SameMemory (s t : State) : Prop := ∀ b, Memory.read t.ram b = Memory.read s.ram b

/-- Every byte but those of the access at `a` reads in `t` as in `s`. -/
def SameMemoryBut (sz : Size) (a : Word) (s t : State) : Prop :=
  ∀ b, outside sz a b → Memory.read t.ram b = Memory.read s.ram b

/-- Every working register but those of the list holds in `t` what it holds in `s`. -/
def SameWBut (l : List WReg) (s t : State) : Prop := ∀ n, n ∉ l → getW n t = getW n s

/-- The data address of Wn (R25). -/
def regAddr (n : WReg) : Word := (n ++ 0#1).setWidth 16

/-! ## Pointers -/

/-- An address `ea` formed from Wn is used without a reset, a refusal or a trap (R100). -/
def pointerOk (role : Role) (n : WReg) (ea : Word) (s : State) : Bool :=
  (pointerStop role n s).isNone && (n != 15#4 || !stackBad ea s)

/-- The pointer Wn moved by `d`. -/
def moved (n : WReg) (d : Int) (s : State) : State :=
  if d = 0 then s else putW n (getW n s + BitVec.ofInt 16 d) s

/-- The state in which an operand's address is formed, its pointer moving by `k` at a step. -/
def pointedAt (k : Nat) (m : Mode) (n : WReg) (s : State) : State := moved n (preStep m * k) s

/-- The address of an indirect operand. -/
def operandAddr (k : Nat) (m : Mode) (n : WReg) (s : State) : Word := getW n (pointedAt k m n s)

/-- The state with the pointer moved both before and after the address is formed. -/
def pointerDone (k : Nat) (m : Mode) (n : WReg) (s : State) : State :=
  moved n (postStep m * k) (pointedAt k m n s)

/-- No move of the pointer wraps over the end of data space while that is checked (R433). -/
def noWrap (role : Role) (k : Nat) (m : Mode) (n : WReg) (s : State) : Bool :=
  !wraps role n (preStep m * k) s && !wraps role n (postStep m * k) (pointedAt k m n s)

/-! ## Source and destination operands (R161, R162) -/

/-- A source operand is read without a stop or a trap. -/
def srcReady (sz : Size) (m : Mode) (n : WReg) (s : State) : Bool :=
  m == .direct ||
    (noWrap .source (Size.step sz) m n s
      && pointerOk .source n (operandAddr (Size.step sz) m n s) s
      && readable sz (operandAddr (Size.step sz) m n s) (pointedAt (Size.step sz) m n s))

/-- The value of a source operand (R161). -/
def srcVal (sz : Size) (m : Mode) (n : WReg) (s : State) : Word :=
  if m = .direct then narrow sz (getW n s)
  else readVal sz (operandAddr (Size.step sz) m n s) (pointedAt (Size.step sz) m n s)

/-- The state after a source operand (R161). -/
def srcNext (sz : Size) (m : Mode) (n : WReg) (s : State) : State :=
  if m = .direct then s else pointerDone (Size.step sz) m n s

/-- A destination operand is written without a stop or a trap. -/
def dstReady (sz : Size) (m : Mode) (n : WReg) (s : State) : Bool :=
  m == .direct ||
    (noWrap .dest (Size.step sz) m n s
      && pointerOk .dest n (operandAddr (Size.step sz) m n s) s
      && writable sz (operandAddr (Size.step sz) m n s) s)

/-- The state after `v` is written to a destination operand (R162). -/
def dstNext (sz : Size) (m : Mode) (n : WReg) (v : Word) (s : State) : State :=
  if m = .direct then setWSized sz n v s
  else written sz (operandAddr (Size.step sz) m n s) v (pointerDone (Size.step sz) m n s)

/-- The pointer a mode moves, if it moves one. -/
def pointerRegs (m : Mode) (n : WReg) : List WReg :=
  if preStep m = 0 ∧ postStep m = 0 then [] else [n]

/-- The registers a destination operand changes, when it does not write a core register's address:
the register itself, or the pointer it moves. -/
def dstRegs (m : Mode) (n : WReg) : List WReg := if m = .direct then [n] else pointerRegs m n

/-- A destination operand that writes the data address of a core register (R98). -/
def dstIsCore (sz : Size) (m : Mode) (n : WReg) (s : State) : Prop :=
  m ≠ .direct ∧ regionOf sz (operandAddr (Size.step sz) m n s) s = .core

/-- The memory frame of a destination operand written in `s`: a direct one stores nothing, an indirect
one stores to no byte but those at its address. -/
def DstFrame (sz : Size) (m : Mode) (n : WReg) (s t : State) : Prop :=
  (m = .direct → SameMemory s t)
    ∧ (m ≠ .direct → SameMemoryBut sz (operandAddr (Size.step sz) m n s) s t)

/-- `t` is `u` but for the record of the instruction and the count of free values. -/
def Like (u t : State) : Prop := t = { u with cur := t.cur, draws := t.draws }

/-- `t` is `u` but for the pc `p`, the record of the instruction and the count of free values. -/
def Ends (p : PAddr) (u t : State) : Prop := t = { u with pc := p, cur := t.cur, draws := t.draws }

/-! ## The stack -/

/-- A push is made without a stop or a trap. -/
def pushReady (s : State) : Bool := dstReady .word .postInc 15#4 s

/-- The state after a push. -/
def pushNext (v : Word) (s : State) : State := dstNext .word .postInc 15#4 v s

/-- A pop is made without a stop or a trap. -/
def popReady (s : State) : Bool := srcReady .word .preDec 15#4 s

/-- The value a pop gives. -/
def popVal (s : State) : Word := srcVal .word .preDec 15#4 s

/-- The state after a pop. -/
def popNext (s : State) : State := srcNext .word .preDec 15#4 s

/-! ## Double words (R170, R171) -/

/-- A read of this region draws a free value. -/
def Region.draws (r : Region) : Bool := r == .intcon || r == .free

/-- A word read that is made, of anything whose read draws no free value. -/
def readableWord (a : Word) (s : State) : Bool :=
  readable .word a s && !(regionOf .word a s).draws

/-- A double word source is read without a stop or a trap. -/
def doubleReady (m : Mode) (n : WReg) (s : State) : Bool :=
  if m = .direct then n.isEven
  else noWrap .source 4 m n s && pointerOk .source n (operandAddr 4 m n s) s
    && readableWord (operandAddr 4 m n s) (pointedAt 4 m n s)
    && readableWord (operandAddr 4 m n s + 2#16) (pointedAt 4 m n s)

/-- The low and the high word of a double word source. -/
def doubleVal (m : Mode) (n : WReg) (s : State) : Word × Word :=
  if m = .direct then (getW n s, getW (n + 1#4) s)
  else (readVal .word (operandAddr 4 m n s) (pointedAt 4 m n s),
    readVal .word (operandAddr 4 m n s + 2#16) (pointedAt 4 m n s))

/-- The state after a double word source. -/
def doubleNext (m : Mode) (n : WReg) (s : State) : State :=
  if m = .direct then s else pointerDone 4 m n s

/-- A double word destination in storage is written without a stop or a trap. -/
def doubleDstReady (m : Mode) (n : WReg) (s : State) : Bool :=
  if m = .direct then n.isEven
  else noWrap .dest 4 m n s && pointerOk .dest n (operandAddr 4 m n s) s
    && (n != 15#4 || !stackBad (operandAddr 4 m n s + 2#16) s)
    && writable .word (operandAddr 4 m n s) s && writable .word (operandAddr 4 m n s + 2#16) s

/-- The state after the words `lo` and `hi` are written to a double word destination. -/
def doubleDstNext (m : Mode) (n : WReg) (lo hi : Word) (s : State) : State :=
  if m = .direct then setW (n + 1#4) hi (setW n lo s)
  else written .word (operandAddr 4 m n s + 2#16) hi
    (written .word (operandAddr 4 m n s) lo (pointerDone 4 m n s))

/-! ## Accumulator updates (R251) -/

/-- OX. -/
def accO (x : AccId) (s : State) : Bool :=
  match x with
  | .accA => s.sr.oa
  | .accB => s.sr.ob

/-- SX. -/
def accS (x : AccId) (s : State) : Bool :=
  match x with
  | .accA => s.sr.sa
  | .accB => s.sr.sb

/-- `r` does not fit bits 31:0 with their sign (R251). -/
def Over31 (r : Int) : Prop := r < -2 ^ 31 ∨ 2 ^ 31 - 1 < r

/-- `r` does not fit 40 bits (R251). -/
def Over39 (r : Int) : Prop := r < -2 ^ 39 ∨ 2 ^ 39 - 1 < r

/-- What a DSP multiply may give for the inputs `x` and `y`: the exact product, doubled in fractional
mode, or one of the three candidates for signed fractional -1.0 x -1.0 (R246, R247). -/
def products (x y : Word) (s : State) : List Int :=
  if s.corcon.us = false ∧ s.corcon.intMode = false ∧ x = 0x8000#16 ∧ y = 0x8000#16 then
    [0x80000000, 0x7FFFFFFF, -0x80000000]
  else
    let p := if s.corcon.us then (x.toNat : Int) * (y.toNat : Int) else x.toInt * y.toInt
    [if s.corcon.intMode then p else p + p]

/-- The word `v` in bits 31:16, shifted right by `k`, or left by `-k` (R262, R281). -/
def scaledWord (v : Word) (k : Int) : Int :=
  if 0 ≤ k then v.toInt * 2 ^ 16 / 2 ^ k.toNat else v.toInt * 2 ^ 16 * 2 ^ (-k).toNat

/-- An accumulator's value shifted right by `k`, or left by `-k` (R262). -/
def scaledAcc (v : Acc40) (k : Int) : Int :=
  if 0 ≤ k then v.toInt / 2 ^ k.toNat else v.toInt * 2 ^ (-k).toNat

/-- No status bit but OA, OB, SA, SB differs (R291). -/
def OnlyAccStatus (s t : State) : Prop :=
  t.sr = { s.sr with oa := t.sr.oa, ob := t.sr.ob, sa := t.sr.sa, sb := t.sr.sb }

/-- An update that gives `r`, by an instruction that began in `m`, is made: it raises no trap, or one
that may be raised (R457). -/
def accReady (x : AccId) (r : Int) (m : State) : Bool :=
  !accTraps x r m || decide (cpuLevel m < arithLevel m)

/-- The state after an update that gives `r`, by an instruction that began in `m`. -/
def accDone (x : AccId) (r : Int) (m s : State) : State :=
  { accStore x r m s with arithPending := s.arithPending || accTraps x r m }

/-! ## Prefetches and the write back (R266, R270) -/

/-- The address of a prefetch. -/
def prefetchAddr (side : Side) (a : PreAccess) (s : State) : Word :=
  match a with
  | .modify p _ => getW (prefetchPtr side p) s
  | .offset => getW (prefetchPtr side .upper) s + getW 12#4 s

/-- How far a prefetch moves its pointer. -/
def prefetchMove (a : PreAccess) : Int :=
  match a with
  | .modify _ k => prefetchStep k
  | .offset => 0

/-- The address of a prefetch is formed without a stop. -/
def prefetchFormed (side : Side) (a : PreAccess) (s : State) : Bool :=
  isInit (prefetchReg side a) s && (a != .offset || isInit 12#4 s) && !moduloOn s

/-- A prefetch from `ea` is read without a stop. -/
def prefetchReads (side : Side) (ea : Word) (s : State) : Bool :=
  inBlock side ea s && readableWord ea s

/-- A prefetch is made without a stop. -/
def prefetchReady (side : Side) (a : PreAccess) (s : State) : Bool :=
  prefetchFormed side a s && prefetchReads side (prefetchAddr side a s) s

/-- The state after a prefetch's pointer modification. -/
def prefetchNext (side : Side) (a : PreAccess) (s : State) : State :=
  moved (prefetchReg side a) (prefetchMove a) s

/-- A prefetch that may be absent is made without a stop. -/
def prefetchOptReady (side : Side) (a : Option PreAccess) (s : State) : Bool :=
  match a with
  | none => true
  | some a => prefetchReady side a s

/-- The word a prefetch that may be absent reads. -/
def prefetchOptVal (side : Side) (a : Option PreAccess) (s : State) : Option Word :=
  a.map fun a => readVal .word (prefetchAddr side a s) s

/-- The state after the pointer modification of a prefetch that may be absent. -/
def prefetchOptNext (side : Side) (a : Option PreAccess) (s : State) : State :=
  match a with
  | none => s
  | some a => prefetchNext side a s

/-- A write back is made without a stop. -/
def writeBackReady (b : WriteBack) (s : State) : Bool :=
  match b with
  | .none | .w13 => true
  | .w13Inc => isInit 13#4 s && !moduloOn s && writable .word (getW 13#4 s) s

/-- The state after a write back of `v`, to `ea` where it goes to memory. -/
def writeBackNext (b : WriteBack) (ea v : Word) (s : State) : State :=
  match b with
  | .none => s
  | .w13 => setW 13#4 v s
  | .w13Inc => written .word ea v (moved 13#4 2 s)

/-- The prefetches and the write back of a multiply are made without a stop. -/
def movesReady (xd yd : DspReg) (px py : Option PreAccess) (b : WriteBack) (s : State) : Bool :=
  !(px.isSome && py.isSome && xd == yd) && writeBackReady b s
    && prefetchOptReady .x px s && prefetchOptReady .y py s

/-- The state after the data moves of a multiply on accumulator `x` that began in `s`: the pointer
modifications, the write back, the fetched words, which are those that `s` holds. -/
def movesNext (x : AccId) (xd yd : DspReg) (px py : Option PreAccess) (b : WriteBack) (s : State) :
    State :=
  setFetched yd (prefetchOptVal .y py s)
    (setFetched xd (prefetchOptVal .x px s)
      (writeBackNext b (getW 13#4 s) (writeBackValue x s)
        (prefetchOptNext .y py (prefetchOptNext .x px s))))

/-- The state after a multiply that gives the accumulator the exact result `r`, up to the pc. -/
def mulNext (r : Int) (x : AccId) (xd yd : DspReg) (px py : Option PreAccess) (b : WriteBack)
    (s : State) : State :=
  writeBackWins b (getW 13#4 s) (writeBackValue x s) (accDone x r s (movesNext x xd yd px py b s))

/-- A write back through W13 that writes the data address of a core register. -/
def writeBackIsCore (b : WriteBack) (s : State) : Prop :=
  b = .w13Inc ∧ regionOf .word (getW 13#4 s) s = .core

/-- The registers a prefetch changes: its pointer when it moves it, and its destination. -/
def prefetchRegs (side : Side) (xd : DspReg) (a : Option PreAccess) : List WReg :=
  match a with
  | none => []
  | some a => if prefetchMove a = 0 then [dspW xd] else [prefetchReg side a, dspW xd]

/-- The registers a write back changes, when it does not write a core register's address. -/
def writeBackRegs (b : WriteBack) : List WReg := if b = .none then [] else [13#4]

/-- The memory frame of a write back made in `s`. -/
def WriteBackFrame (b : WriteBack) (s t : State) : Prop :=
  (b ≠ .w13Inc → SameMemory s t) ∧ (b = .w13Inc → SameMemoryBut .word (getW 13#4 s) s t)

/-! ## Stack accesses that may trap (R431 to R433) -/

/-- A push is made, whether it raises StackError or not. -/
def pushMade (s : State) : Bool := !moduloOn s && writable .word (getW 15#4 s) s

/-- A push raises StackError: its address is out of bounds, or W15 wraps while that is checked. -/
def pushTraps (s : State) : Bool :=
  stackBad (getW 15#4 s) s || (s.splimEn && decide (0xFFFE ≤ (getW 15#4 s).toNat))

/-- The address of a pop. -/
def popAddr (s : State) : Word := operandAddr 2 .preDec 15#4 s

/-- A pop is made, whether it raises StackError or not, and its value is no free one. -/
def popMade (s : State) : Bool :=
  !moduloOn s && !previously (fun e => e.access.wroteSplim) s
    && readableWord (popAddr s) (pointedAt 2 .preDec 15#4 s)

/-- A pop raises StackError. -/
def popTraps (s : State) : Bool := stackBad (popAddr s) s

/-! ## Two words on the stack -/

/-- Both pushes of a return address whose low word is `lo` are made without a stop or a trap. -/
def pushTwoReady (lo : Word) (s : State) : Bool := pushReady s && pushReady (pushNext lo s)

/-- The state after `lo` and then `hi` are pushed. -/
def pushTwo (lo hi : Word) (s : State) : State := pushNext hi (pushNext lo s)

/-- `lo` and `hi` lie on the stack at `a`, which W15 has passed by 4, and no byte outside those two
words has changed. -/
def StackedTwo (lo hi : Word) (s t : State) : Prop :=
  getW 15#4 t = getW 15#4 s + 4#16 ∧ SameWBut [15#4] s t
    ∧ (Memory.wf s.ram = true →
      memRead .word (getW 15#4 s) t = .ok (lo, t)
        ∧ memRead .word (getW 15#4 s + 2#16) t = .ok (hi, t))
    ∧ ∀ b, outside .word (getW 15#4 s) b → outside .word (getW 15#4 s + 2#16) b →
      Memory.read t.ram b = Memory.read s.ram b

/-- Both pops of a return are made without a stop or a trap. -/
def popTwoReady (s : State) : Bool := popReady s && popReady (popNext s)

/-- The state after two pops. -/
def popTwo (s : State) : State := popNext (popNext s)

/-- The second stacked word: the one popped first. -/
def popHi (s : State) : Word := popVal s

/-- The first stacked word. -/
def popLo (s : State) : Word := popVal (popNext s)

/-! ## Exceptions -/

/-- Both words of an exception entry go to storage. -/
def entryStorage (s : State) : Bool :=
  !moduloOn s && !(getW 15#4 s).getLsbD 0
    && regionOf .word (getW 15#4 s) s == .storage
    && regionOf .word (getW 15#4 s + 2#16) s == .storage

/-- Entering `e` raises StackError by its own pushes, which StackError's entry alone does not check
(R435). -/
def entryTraps (e : Exception) (s : State) : Bool :=
  e != .stackError && (stackBad (getW 15#4 s) s || stackBad (getW 15#4 s + 2#16) s
    || (s.splimEn && decide (0xFFFC ≤ (getW 15#4 s).toNat)))

/-! ## Additions and divides -/

/-- The signed value of the low `w` bits of an operand (R205). -/
def signedVal (sz : Size) (v : Word) : Int :=
  match sz with
  | .word => v.toInt
  | .byte => (v.setWidth 8).toInt

/-- The status an addition of `a` and `m` leaves (R202 to R206): the carry out of the operand's top
bit, a zero or negative result, a signed sum out of range, the carry out of the low half. -/
def addStatus (sz : Size) (a m : Word) (r : Status) : Status :=
  let w := Size.bits sz
  let sum := signedVal sz a + signedVal sz m
  { r with
    c := decide (2 ^ w ≤ a.toNat + m.toNat)
    z := decide ((a.toNat + m.toNat) % 2 ^ w = 0)
    n := decide (2 ^ (w - 1) ≤ (a.toNat + m.toNat) % 2 ^ w)
    ov := decide (sum < -2 ^ (w - 1) ∨ 2 ^ (w - 1) ≤ sum)
    dc := decide (2 ^ (w / 2) ≤ a.toNat % 2 ^ (w / 2) + m.toNat % 2 ^ (w / 2)) }

/-- The divide instruction of each kind, with its dividend in `m` (the even register of a pair) and
its divisor in `n` (R301). -/
def divInstr (k : DivKind) (m n : WReg) : Instr :=
  match k with
  | .sw => .divSW 0#4 m n
  | .sd => .divSD (m + 1#4) m n
  | .uw => .divUW 0#4 m n
  | .ud => .divUD (m + 1#4) m n
  | .frac => .divF m n

/-- The five MCU flags apart, the status registers and everything else but W0, W1, `dv`, the pc and a
pending trap is in `t` as in `s`. -/
def DivideFrame (s t : State) : Prop :=
  t = { s with
      pc := ahead 1 s.pc, w := t.w, winit := t.winit, dv := t.dv, cur := t.cur, draws := t.draws
      arithPending := t.arithPending
      sr := { s.sr with c := t.sr.c, z := t.sr.z, n := t.sr.n, ov := t.sr.ov, dc := t.sr.dc } }
    ∧ SameWBut [0#4, 1#4] s t

/-! ## Runs of one instruction -/

/-- The instruction `i` run `k` times at boundaries that present nothing, as under a REPEAT; none
when it stops. -/
def runTimes (i : Instr) : Nat → State → Option State
  | 0, s => some s
  | k + 1, s =>
    match runInstr i (openBoundary s) with
    | .next t => runTimes i k t
    | .fault _ => none
    | .refused _ => none

end Sys2Proof.Machine
end

