-- ==== Sys2Proof/Certificates/Slice0/Obligations.lean ====
section
/-! DEFINITION. The statements for the provers. Operands are spoken of in the terms of `Safety.lean`:
`srcReady`, `srcVal`, `srcNext` for a source, `dstReady`, `dstNext` for a destination, `Ends` for the
state an instruction leaves up to the record of what it did. -/

open Sys2Proof Sys2Proof.Machine

/-! ## Encoding -/

/-- Decoding the words of an instruction gives the instruction, for every instruction, every operand,
and whatever word follows a one-word instruction (R146, log entry 11). -/
def Obligations.decode_encode : Prop :=
  ∀ (i : Instr) (w2 : Option PWord), (i.words = 2 → w2 = encodeSecond i) →
    decode (encodeFirst i) w2 = .ok i

/-- The second word of a two-word instruction, fetched alone, is a NOP (R131), and so is every word
whose top byte is 0 (R340). -/
def Obligations.second_word_is_nop : Prop :=
  (∀ (i : Instr) (v : PWord) (w2 : Option PWord), encodeSecond i = some v → decode v w2 = .ok .nop)
    ∧ ∀ (v : BitVec 16) (w2 : Option PWord), decode (0#8 ++ v) w2 = .ok .nop

/-- Words written out from the encoding strings of R146 decode to their instructions. -/
def Obligations.words_decode : Prop :=
  decode 0x780880#24 none = .ok (.movWsWd .word 0#4 (.plain .ind) 1#4 (.plain .direct) 0#4)
    ∧ decode 0x200031#24 none = .ok (.movLit16Wnd 3#16 1#4)
    ∧ decode 0x418204#24 none = .ok (.addWbWsWd .word 3#4 .direct 4#4 .direct 4#4)
    ∧ decode 0xC00113#24 none
      = .ok (.mpy .w4w5 .accA .w4 .w4 none none)
    ∧ decode 0xD80203#24 none = .ok (.divSW 0#4 4#4 3#4)
    ∧ decode 0x020200#24 (some 0x000001#24) = .ok (.call 0x100#15 1#7)
    ∧ decode 0x080021#24 (some 0x000003#24) = .ok (.doLit 33#14 3#16)
    ∧ decode 0xFC0003#24 none = .ok (.disi 3#14)

/-! ## The machine as a whole -/

/-- Every step keeps the invariant: the memory's canonical form, the fixed bits, the unimplemented
bits of MODCON, and a divide within its 18 executions. -/
def Obligations.step_keeps_inv : Prop :=
  ∀ s t : State, Inv s → step s = .next t → Inv t

/-- The invariant holds right after reset. -/
def Obligations.reset_inv : Prop := Inv State.reset

/-- No step changes program memory or the device (R112). -/
def Obligations.program_constant : Prop :=
  ∀ s t : State, step s = .next t → t.prog = s.prog ∧ t.dev = s.dev

/-- With nothing presented and no trap pending, the step runs the instruction that the words at the pc
decode to: the REPEAT target check, then its own rule, then the loop rules, the DISI countdown and
the record (R10, R364, R374). In front of a REPEAT target that an exception came before, `rpt_fresh` is
set again first (`resumeTarget`; R80, log entry 55). -/
def Obligations.step_runs_decoded : Prop :=
  ∀ (s : State) (w : PWord) (i : Instr), s.power = .run → (presented s).reset = false →
    acceptedException (presented s) (openBoundary s) = none →
    progRead s.pc s = some w → decode w (progRead (ahead 1 s.pc) s) = .ok i →
    let v := resumeTarget (openBoundary s)
    preCheck i v = none →
    step s = match exec i v with
      | .next t => (match complete i v t with
        | .ok u => .next u
        | .error r => .refused r)
      | .fault f => .fault f
      | .refused r => .refused r

/-- What follows an instruction that is no REPEAT, outside every loop and with DISICNT at 0: its own
rule's state stands, `rpt_fresh` is cleared, a request for early termination ages, and the records
are kept (R364, R374, R377); but a step that leaves W15 below 0x0800 with no address formed from it is
refused (R432, D45, log entry 35). -/
def Obligations.complete_plain : Prop :=
  ∀ (i : Instr) (s t : State), isRepeat i = false → s.sr.ra = false →
    loopActive s = false → loopActive t = false → t.disicnt = 0#14 → t.cur.reset = false →
    (0x0800 ≤ (getW 15#4 t).toNat ∨ t.cur.stackEA = true →
      complete i s t = .ok { t with
        rptFresh := false, edt := ageEdt t.edt, adjacent := true
        hist := { instr := i, access := t.cur } :: s.hist.take 2
        targets := s.targets.filter fun x => x != (s.pc, getW 15#4 s)
        skipNops := nextSkipNops i s t })
    ∧ ((getW 15#4 t).toNat < 0x0800 → t.cur.stackEA = false →
      complete i s t = .error .stackFloor)

/-- After a reset, be it the RESET instruction or the outside world's request, the registers hold the
values R61 gives, RAM and program memory their content (R403, R470). An uninitialised pointer's reset
is the same (`uninit_pointer_resets`). -/
def Obligations.reset_values : Prop :=
  ∀ s : State,
    let done (t : State) :=
      (∀ n, getW n t = if n = 15#4 then 0x0800#16 else 0#16)
      ∧ (∀ n, n ≠ 15#4 → isInit n t = false)
      ∧ t.pc = 0#23 ∧ srWord t = 0#16 ∧ corconWord t = 0x0020#16
      ∧ t.acca = 0#40 ∧ t.accb = 0#40 ∧ t.splim = 0#16 ∧ t.splimEn = false
      ∧ t.tblpag = 0#8 ∧ t.psvpag = 0#8 ∧ t.modcon = 0#16 ∧ t.disicnt = 0#14
      ∧ t.intcon.nstdis = false ∧ t.intcon.ovate = false ∧ t.intcon.ovbte = false
      ∧ t.intcon.covte = false
      ∧ t.loop.start.getLsbD 0 = false ∧ t.loop.stop.getLsbD 0 = false
      ∧ t.loopShadow.start.getLsbD 0 = false ∧ t.loopShadow.stop.getLsbD 0 = false
      ∧ t.xmodend.getLsbD 0 = true ∧ t.ymodend.getLsbD 0 = true
      ∧ t.xmodsrt.getLsbD 0 = false ∧ t.ymodsrt.getLsbD 0 = false
      ∧ t.edt = .none ∧ t.rptFresh = false ∧ t.dv = none
      ∧ t.stackPending = false ∧ t.arithPending = false
      ∧ t.ram = s.ram ∧ t.prog = s.prog
    (∃ t, exec .reset s = .next t ∧ done t)
    ∧ (s.power = .run → (presented s).reset = true → ∃ t, step s = .next t ∧ done t)

/-- An uninitialised register of W0 to W14 used as a pointer resets the device, and none of the
instruction's writes is made (R445): a source pointer of every instruction that has one, a destination
pointer, where the source before it can be read, a prefetch pointer, the offset W12, and the write
back pointer W13. That the mark is tested before R103's refusal is the model's choice (log entry 62), and
so is the order of the checks of two prefetches and the write back (log entry 64). -/
def Obligations.uninit_pointer_resets : Prop :=
  ∀ s : State,
    let resets (i : Instr) := exec i s = .next (deviceReset s)
    (∀ (n : WReg) (m : Mode), n ≠ 15#4 → isInit n s = false → m ≠ .direct →
      (∀ (sz : Size) (wb wd : WReg) (dm : Mode),
        resets (.movWsWd sz wb (.plain dm) wd (.plain m) n)
        ∧ resets (.addWbWsWd sz wb dm wd m n))
      ∧ (∀ wd : WReg, resets (.se wd m n) ∧ resets (.ze wd m n))
      ∧ (∀ wb wd : WReg, wd.isEven = true → resets (.mulUU wb wd m n) ∧ resets (.mulSS wb wd m n)
        ∧ resets (.mulSU wb wd m n) ∧ resets (.mulUS wb wd m n))
      ∧ (∀ r : BitVec 3, resets (.movdLoad r m n) ∧ resets (.movdStore m n r))
      ∧ (∀ (a : AccId) (wb : WReg) (sh : BitVec 4), resets (.addWsAcc a wb sh (.plain m) n)
        ∧ resets (.lac a wb sh (.plain m) n) ∧ resets (.sac a wb sh (.plain m) n)
        ∧ resets (.sacR a wb sh (.plain m) n))
      ∧ ∀ (sz : Size) (wb : WReg) (sm : Mode) (ws : WReg), srcReady sz sm ws s = true →
        resets (.movWsWd sz wb (.plain m) n (.plain sm) ws) ∧ resets (.addWbWsWd sz wb m n sm ws))
    ∧ ∀ (a : AccId) (xd yd : DspReg) (x y : Option PreAccess),
      let all (b : WriteBack) := (∀ p : MulPair, resets (.mac p a xd yd x y b)
          ∧ resets (.msc p a xd yd x y b)
          ∧ (b = .none → resets (.mpy p a xd yd x y) ∧ resets (.mpyN p a xd yd x y)))
        ∧ ∀ r : DspReg, b = .none → resets (.macSquare r a xd yd x y)
          ∧ resets (.mpySquare r a xd yd x y)
      let unmarked (side : Side) (p : PreAccess) := isInit (prefetchReg side p) s = false
        ∨ (p = .offset ∧ isInit 12#4 s = false)
      (∀ p b, x = some p → unmarked .x p → (y = none ∨ xd ≠ yd) →
        all b ∧ ∀ (r : DspReg) (q : PreAccess), resets (.ed r a xd p q) ∧ resets (.edac r a xd p q))
      ∧ (∀ p b, y = some p → unmarked .y p → (x = none ∨ xd ≠ yd) →
        prefetchOptReady .x x s = true →
        all b ∧ ∀ (r : DspReg) (q : PreAccess), x = some q →
          resets (.ed r a xd q p) ∧ resets (.edac r a xd q p))
      ∧ (isInit 13#4 s = false → movesReady xd yd x y .none s = true → all .w13Inc)

/-! ## Data space -/

/-- A word access at an odd address is the fault AddressError, a byte access never is (R93, R446). -/
def Obligations.odd_word_faults : Prop :=
  ∀ (a v : Word) (s : State), a.getLsbD 0 = true →
    memRead .word a s = .error (.fault .addressError)
      ∧ memWrite .word a v s = .error (.fault .addressError)
      ∧ memRead .byte a s ≠ .error (.fault .addressError)
      ∧ memWrite .byte a v s ≠ .error (.fault .addressError)

/-- A word written to RAM reads back, low byte at the lower address, and nothing else changes: no other
byte of memory and no register (R92, R96, R97). -/
def Obligations.ram_word : Prop :=
  ∀ (a v : Word) (s : State), Memory.wf s.ram = true → a.getLsbD 0 = false →
    regionOf .word a s = .storage →
    ∃ t, memWrite .word a v s = .ok t
      ∧ memRead .word a t = .ok (v, t)
      ∧ memRead .byte a t = .ok ((v.extractLsb' 0 8).setWidth 16, t)
      ∧ memRead .byte (a + 1#16) t = .ok ((v.extractLsb' 8 8).setWidth 16, t)
      ∧ SameMemoryBut .word a s t ∧ t = { s with ram := t.ram, cur := t.cur }

/-- The working registers through their data addresses: a word write stores the register, with W15<0>
kept 0, and marks it; a byte write changes one byte and leaves the mark (R24, R26, R98; the byte
order is the spec's decision D2, log entry 7). Among the other core registers PCL and PCH are
refused as data (R32), and the reserved addresses 0x0054 to 0x007F read 0 and ignore writes (R59). -/
def Obligations.registers_in_memory : Prop :=
  (∀ (n : WReg) (v : Word) (s : State),
    memRead .word (regAddr n) s = .ok (getW n s, s)
      ∧ memRead .byte (regAddr n) s = .ok (((getW n s).extractLsb' 0 8).setWidth 16, s)
      ∧ memRead .byte (regAddr n + 1#16) s = .ok (((getW n s).extractLsb' 8 8).setWidth 16, s)
      ∧ (∃ t, memWrite .word (regAddr n) v s = .ok t
        ∧ getW n t = fixedW n v ∧ isInit n t = true ∧ SameWBut [n] s t ∧ t.ram = s.ram)
      ∧ (∃ t, memWrite .byte (regAddr n + 1#16) v s = .ok t
        ∧ getW n t = fixedW n (v.extractLsb' 0 8 ++ (getW n s).extractLsb' 0 8)
        ∧ isInit n t = isInit n s ∧ SameWBut [n] s t ∧ t.ram = s.ram))
  ∧ ∀ (a v : Word) (s : State),
    (0x002E#16 ≤ a → a ≤ 0x0031#16 → ∀ sz : Size, (sz = .word → a.getLsbD 0 = false) →
      memRead sz a s = .error (.refused .pcAsData)
      ∧ memWrite sz a v s = .error (.refused .pcAsData))
    ∧ (0x0054#16 ≤ a → a ≤ 0x007F#16 → ∀ sz : Size, (sz = .word → a.getLsbD 0 = false) →
      memRead sz a s = .ok (0#16, s) ∧ memWrite sz a v s = .ok s)

/-- Where each bit of SR is read (R33), and what a software write to it does: the MCU flags and DC are
stored, IPL<2:0> unless NSTDIS is set, SA and SB can only be cleared, RA, OA, OB and DA keep their
value (R41). A read of SRL by a REPEAT target is refused (R364, D18). -/
def Obligations.sr_write : Prop :=
  ∀ (v : Word) (s : State),
    (s.sr.ra = false → ∃ w, memRead .word 0x0042#16 s = .ok (w, s)
      ∧ w.getLsbD 15 = s.sr.oa ∧ w.getLsbD 14 = s.sr.ob ∧ w.getLsbD 13 = s.sr.sa
      ∧ w.getLsbD 12 = s.sr.sb ∧ w.getLsbD 11 = (s.sr.oa || s.sr.ob)
      ∧ w.getLsbD 10 = (s.sr.sa || s.sr.sb) ∧ w.getLsbD 9 = (s.corcon.dl != 0#3)
      ∧ w.getLsbD 8 = s.sr.dc ∧ w.extractLsb' 5 3 = s.sr.ipl ∧ w.getLsbD 4 = s.sr.ra
      ∧ w.getLsbD 3 = s.sr.n ∧ w.getLsbD 2 = s.sr.ov ∧ w.getLsbD 1 = s.sr.z
      ∧ w.getLsbD 0 = s.sr.c)
    ∧ (s.sr.ra = true → memRead .word 0x0042#16 s = .error (.refused .srlInRepeat))
    ∧ ∃ t, memWrite .word 0x0042#16 v s = .ok t
      ∧ t = { s with sr := t.sr, cur := t.cur }
      ∧ t.sr.c = v.getLsbD 0 ∧ t.sr.z = v.getLsbD 1 ∧ t.sr.ov = v.getLsbD 2 ∧ t.sr.n = v.getLsbD 3
      ∧ t.sr.ra = s.sr.ra
      ∧ t.sr.ipl = (if s.intcon.nstdis then s.sr.ipl else v.extractLsb' 5 3)
      ∧ t.sr.dc = v.getLsbD 8
      ∧ t.sr.sa = (s.sr.sa && v.getLsbD 13 && v.getLsbD 10)
      ∧ t.sr.sb = (s.sr.sb && v.getLsbD 12 && v.getLsbD 10)
      ∧ t.sr.oa = s.sr.oa ∧ t.sr.ob = s.sr.ob

/-- A byte write to SRL leaves SRH and stores what R41 says of SRL, IPL<2:0> unless NSTDIS is set; a byte
write to SRH leaves SRL (R41, R92). -/
def Obligations.sr_byte_write : Prop :=
  ∀ (v : Word) (s : State),
    (∃ t, memWrite .byte 0x0042#16 v s = .ok t ∧ srHigh t = srHigh s
      ∧ t.sr.c = v.getLsbD 0 ∧ t.sr.z = v.getLsbD 1 ∧ t.sr.ov = v.getLsbD 2
      ∧ t.sr.n = v.getLsbD 3 ∧ t.sr.ra = s.sr.ra
      ∧ (s.intcon.nstdis = true → t.sr.ipl = s.sr.ipl)
      ∧ (s.intcon.nstdis = false → t.sr.ipl = v.extractLsb' 5 3))
    ∧ ∃ t, memWrite .byte 0x0043#16 v s = .ok t ∧ srLow t = srLow s
      ∧ t.sr.dc = v.getLsbD 0
      ∧ t.sr.sa = (s.sr.sa && v.getLsbD 5 && v.getLsbD 2)
      ∧ t.sr.sb = (s.sr.sb && v.getLsbD 4 && v.getLsbD 2)

/-- OAB, SAB and DA are derived (R36, R37): wherever a read of SR answers, OAB is OA or OB, SAB is SA or
SB, DA is DL not 0; a write to bit 11 or to bit 9 has no effect, a write with bit 10 clear clears SA
and SB, and one with bit 10 set does nothing through it, SA and SB being kept where bits 13 and 12 are
set (R35, R41); OA and OB are kept (R34). -/
def Obligations.sr_read : Prop :=
  ∀ s : State,
    (∀ (w : Word) (t : State), memRead .word 0x0042#16 s = .ok (w, t) →
      w.getLsbD 11 = (s.sr.oa || s.sr.ob) ∧ w.getLsbD 10 = (s.sr.sa || s.sr.sb)
        ∧ w.getLsbD 9 = (s.corcon.dl != 0#3))
    ∧ ∀ v : Word, ∃ t, memWrite .word 0x0042#16 v s = .ok t
      ∧ t.sr.oa = s.sr.oa ∧ t.sr.ob = s.sr.ob ∧ t.corcon.dl = s.corcon.dl
      ∧ memWrite .word 0x0042#16 (v ^^^ 0x0800#16) s = .ok t
      ∧ memWrite .word 0x0042#16 (v ^^^ 0x0200#16) s = .ok t
      ∧ memWrite .word 0x0042#16 (v ^^^ 0x0A00#16) s = .ok t
      ∧ (v.getLsbD 10 = false → t.sr.sa = false ∧ t.sr.sb = false)
      ∧ (v.getLsbD 10 = true → v.getLsbD 13 = true → t.sr.sa = s.sr.sa)
      ∧ (v.getLsbD 10 = true → v.getLsbD 12 = true → t.sr.sb = s.sr.sb)

/-- What a software write to CORCON does, and what a read then returns (R43): IPL3 can only be cleared,
DL keeps its value, EDT stores nothing and reads 0, and a byte write applies the addressed half only
(R92: which half is the spec's decision D2, log entry 7). A 1 written to EDT makes a request while a
DO loop is active, and none while no loop is (R377, D20). -/
def Obligations.corcon_write : Prop :=
  ∀ (v : Word) (s : State),
    (∃ t, memWrite .word 0x0044#16 v s = .ok t
      ∧ t = { s with corcon := t.corcon, edt := t.edt, cur := t.cur }
      ∧ t.corcon.us = v.getLsbD 12 ∧ t.corcon.dl = s.corcon.dl
      ∧ t.corcon.sata = v.getLsbD 7 ∧ t.corcon.satb = v.getLsbD 6
      ∧ t.corcon.satdw = v.getLsbD 5 ∧ t.corcon.accsat = v.getLsbD 4
      ∧ t.corcon.ipl3 = (s.corcon.ipl3 && v.getLsbD 3)
      ∧ t.corcon.psv = v.getLsbD 2 ∧ t.corcon.rnd = v.getLsbD 1 ∧ t.corcon.intMode = v.getLsbD 0
      ∧ (v.getLsbD 11 = false → t.edt = s.edt)
      ∧ (v.getLsbD 11 = true → s.corcon.dl ≠ 0#3 → t.edt = .new)
      ∧ (s.corcon.dl = 0#3 → t.edt = s.edt)
      ∧ ∃ w, memRead .word 0x0044#16 t = .ok (w, t)
        ∧ w.extractLsb' 13 3 = 0#3 ∧ w.getLsbD 11 = false ∧ w.extractLsb' 8 3 = s.corcon.dl
        ∧ w.getLsbD 12 = v.getLsbD 12 ∧ w.extractLsb' 4 4 = v.extractLsb' 4 4
        ∧ w.getLsbD 3 = (s.corcon.ipl3 && v.getLsbD 3)
        ∧ w.extractLsb' 0 3 = v.extractLsb' 0 3)
    ∧ (∃ t, memWrite .byte 0x0044#16 v s = .ok t
      ∧ t = { s with corcon := t.corcon, cur := t.cur }
      ∧ t.corcon = { s.corcon with
          sata := v.getLsbD 7, satb := v.getLsbD 6, satdw := v.getLsbD 5, accsat := v.getLsbD 4
          ipl3 := s.corcon.ipl3 && v.getLsbD 3, psv := v.getLsbD 2, rnd := v.getLsbD 1
          intMode := v.getLsbD 0 })
    ∧ ∃ t, memWrite .byte 0x0045#16 v s = .ok t
      ∧ t = { s with corcon := { s.corcon with us := v.getLsbD 4 }, edt := t.edt, cur := t.cur }
      ∧ (v.getLsbD 3 = false → t.edt = s.edt)
      ∧ (v.getLsbD 3 = true → s.corcon.dl ≠ 0#3 → t.edt = .new)
      ∧ (s.corcon.dl = 0#3 → t.edt = s.edt)

/-- SPLIM: bit 0 stays 0, a word write enables the limit check and nothing disables it, a byte write
changes its byte and leaves the latch (R45; which byte is the spec's decision D2, log entry 7). -/
def Obligations.splim_write : Prop :=
  ∀ (v : Word) (s : State),
    (∃ t, memWrite .word 0x0020#16 v s = .ok t ∧ t.splim = v &&& 0xFFFE#16 ∧ t.splimEn = true
      ∧ t = { s with splim := t.splim, splimEn := t.splimEn, cur := t.cur })
    ∧ (∃ t, memWrite .byte 0x0020#16 v s = .ok t
      ∧ t.splim = (s.splim.extractLsb' 8 8 ++ v.extractLsb' 0 8) &&& 0xFFFE#16
      ∧ t = { s with splim := t.splim, cur := t.cur })
    ∧ ∃ t, memWrite .byte 0x0021#16 v s = .ok t
      ∧ t.splim = (v.extractLsb' 0 8 ++ s.splim.extractLsb' 0 8) &&& 0xFFFE#16
      ∧ t = { s with splim := t.splim, cur := t.cur }

/-- The accumulators through their data addresses: three pieces each, the upper one sign-extended on a
read and bits 15:8 of what is written to it dropped (R46, R47, by the spec's own inference), and no
status bit, no saturation, no overflow detection (R48). -/
def Obligations.accumulator_in_memory : Prop :=
  ∀ (v : Word) (s : State),
    (∃ w, memRead .word 0x0026#16 s = .ok (w, s) ∧ w.toInt = (s.acca.extractLsb' 32 8).toInt)
    ∧ (∃ w, memRead .word 0x002C#16 s = .ok (w, s) ∧ w.toInt = (s.accb.extractLsb' 32 8).toInt)
    ∧ memRead .word 0x0022#16 s = .ok (s.acca.extractLsb' 0 16, s)
    ∧ memRead .word 0x0024#16 s = .ok (s.acca.extractLsb' 16 16, s)
    ∧ memRead .word 0x0028#16 s = .ok (s.accb.extractLsb' 0 16, s)
    ∧ memRead .word 0x002A#16 s = .ok (s.accb.extractLsb' 16 16, s)
    ∧ memWrite .word 0x0022#16 v s = .ok { s with acca := s.acca.extractLsb' 16 24 ++ v }
    ∧ memWrite .word 0x0024#16 v s = .ok { s with
        acca := s.acca.extractLsb' 32 8 ++ v ++ s.acca.extractLsb' 0 16 }
    ∧ memWrite .word 0x0026#16 v s
      = .ok { s with acca := v.extractLsb' 0 8 ++ s.acca.extractLsb' 0 32 }
    ∧ memWrite .word 0x0028#16 v s = .ok { s with accb := s.accb.extractLsb' 16 24 ++ v }
    ∧ memWrite .word 0x002A#16 v s = .ok { s with
        accb := s.accb.extractLsb' 32 8 ++ v ++ s.accb.extractLsb' 0 16 }
    ∧ memWrite .word 0x002C#16 v s
      = .ok { s with accb := v.extractLsb' 0 8 ++ s.accb.extractLsb' 0 32 }

/-- The page, modulo and loop registers, DISICNT and INTCON1 through their data addresses: unimplemented
bits read 0 and ignore writes, fixed bits keep their value (R50 to R58). RCOUNT is no data for a
REPEAT target (R364), DISICNT none while it counts (R400). INTCON1 is there where the device gives its
address, and its other bits are free (R70, log entry 29). -/
def Obligations.special_registers_write : Prop :=
  ∀ (v : Word) (s : State),
    let reads (a w : Word) := memRead .word a s = .ok (w, s)
    (reads 0x0032#16 (s.tblpag.setWidth 16)
      ∧ memWrite .word 0x0032#16 v s = .ok { s with tblpag := v.setWidth 8 })
    ∧ (reads 0x0034#16 (s.psvpag.setWidth 16)
      ∧ memWrite .word 0x0034#16 v s = .ok { s with psvpag := v.setWidth 8 })
    ∧ (reads 0x0046#16 s.modcon ∧ ∃ t, memWrite .word 0x0046#16 v s = .ok t
      ∧ t = { s with modcon := t.modcon }
      ∧ t.modcon.extractLsb' 12 2 = 0#2 ∧ t.modcon.extractLsb' 0 12 = v.extractLsb' 0 12
      ∧ t.modcon.extractLsb' 14 2 = v.extractLsb' 14 2)
    ∧ (reads 0x0048#16 s.xmodsrt ∧ ∃ t, memWrite .word 0x0048#16 v s = .ok t
      ∧ t = { s with xmodsrt := t.xmodsrt }
      ∧ t.xmodsrt.getLsbD 0 = false ∧ t.xmodsrt.extractLsb' 1 15 = v.extractLsb' 1 15)
    ∧ (reads 0x004A#16 s.xmodend ∧ ∃ t, memWrite .word 0x004A#16 v s = .ok t
      ∧ t = { s with xmodend := t.xmodend }
      ∧ t.xmodend.getLsbD 0 = true ∧ t.xmodend.extractLsb' 1 15 = v.extractLsb' 1 15)
    ∧ (reads 0x004C#16 s.ymodsrt ∧ ∃ t, memWrite .word 0x004C#16 v s = .ok t
      ∧ t = { s with ymodsrt := t.ymodsrt }
      ∧ t.ymodsrt.getLsbD 0 = false ∧ t.ymodsrt.extractLsb' 1 15 = v.extractLsb' 1 15)
    ∧ (reads 0x004E#16 s.ymodend ∧ ∃ t, memWrite .word 0x004E#16 v s = .ok t
      ∧ t = { s with ymodend := t.ymodend }
      ∧ t.ymodend.getLsbD 0 = true ∧ t.ymodend.extractLsb' 1 15 = v.extractLsb' 1 15)
    ∧ (reads 0x0050#16 s.xbrev ∧ memWrite .word 0x0050#16 v s = .ok { s with xbrev := v })
    ∧ (s.sr.ra = false → reads 0x0036#16 (s.rcount.setWidth 16)
      ∧ memWrite .word 0x0036#16 v s = .ok { s with rcount := v.setWidth 14 })
    ∧ (s.sr.ra = true → ∀ a : Word, a = 0x0036#16 ∨ a = 0x0037#16 →
      memRead .byte a s = .error (.refused .rcountInRepeat)
      ∧ memWrite .byte a v s = .error (.refused .rcountInRepeat)
      ∧ (a = 0x0036#16 → memRead .word a s = .error (.refused .rcountInRepeat)
        ∧ memWrite .word a v s = .error (.refused .rcountInRepeat)))
    ∧ (reads 0x0038#16 (s.loop.count.setWidth 16) ∧ ∃ t, memWrite .word 0x0038#16 v s = .ok t
      ∧ t = { s with loop := { s.loop with count := v.setWidth 14 }, cur := t.cur })
    ∧ (reads 0x003A#16 (s.loop.start.extractLsb' 0 16) ∧ ∃ t, memWrite .word 0x003A#16 v s = .ok t
      ∧ t = { s with loop := { s.loop with start := t.loop.start }, cur := t.cur }
      ∧ t.loop.start.getLsbD 0 = false ∧ t.loop.start.extractLsb' 1 15 = v.extractLsb' 1 15
      ∧ t.loop.start.extractLsb' 16 6 = s.loop.start.extractLsb' 16 6)
    ∧ (reads 0x003C#16 ((s.loop.start.extractLsb' 16 6).setWidth 16)
      ∧ ∃ t, memWrite .word 0x003C#16 v s = .ok t
      ∧ t = { s with loop := { s.loop with start := t.loop.start }, cur := t.cur }
      ∧ t.loop.start.extractLsb' 16 6 = v.extractLsb' 0 6
      ∧ t.loop.start.extractLsb' 0 16 = s.loop.start.extractLsb' 0 16)
    ∧ (∃ t, memWrite .word 0x003E#16 v s = .ok t
      ∧ t = { s with loop := { s.loop with stop := t.loop.stop }, cur := t.cur }
      ∧ t.loop.stop.getLsbD 0 = false ∧ t.loop.stop.extractLsb' 1 15 = v.extractLsb' 1 15
      ∧ t.loop.stop.extractLsb' 16 6 = s.loop.stop.extractLsb' 16 6)
    ∧ (∃ t, memWrite .word 0x0040#16 v s = .ok t
      ∧ t = { s with loop := { s.loop with stop := t.loop.stop }, cur := t.cur }
      ∧ t.loop.stop.extractLsb' 16 6 = v.extractLsb' 0 6
      ∧ t.loop.stop.extractLsb' 0 16 = s.loop.stop.extractLsb' 0 16)
    ∧ ((∀ e ∈ s.hist.head?, isDo e.instr = false ∧ e.access.wroteDoend = false) →
      reads 0x003E#16 (s.loop.stop.extractLsb' 0 16)
      ∧ reads 0x0040#16 ((s.loop.stop.extractLsb' 16 6).setWidth 16))
    ∧ (s.disicnt = 0#14 → reads 0x0052#16 0#16)
    ∧ (s.disicnt ≠ 0#14 → memRead .word 0x0052#16 s = .error (.refused .disicntRead))
    ∧ (∃ t, memWrite .word 0x0052#16 v s = .ok t
      ∧ t = { s with disicnt := v.setWidth 14, cur := t.cur } ∧ t.cur.wroteDisi = true)
    ∧ ∀ a : Word, s.dev.intcon1 = some a → a.getLsbD 0 = false → 0x0080#16 ≤ a → a < 0x0800#16 →
      (∃ w t, memRead .word a s = .ok (w, t) ∧ t = { s with draws := t.draws }
        ∧ w.getLsbD 15 = s.intcon.nstdis ∧ w.getLsbD 10 = s.intcon.ovate
        ∧ w.getLsbD 9 = s.intcon.ovbte ∧ w.getLsbD 8 = s.intcon.covte)
      ∧ memWrite .word a v s = .ok { s with intcon := {
          nstdis := v.getLsbD 15, ovate := v.getLsbD 10, ovbte := v.getLsbD 9
          covte := v.getLsbD 8 } }

/-- A read through the PSV window: the low 16 bits of the program word at PSVPAG, the address's bits
14:1 and a 0 (R107). -/
def Obligations.psv_read : Prop :=
  ∀ (a : Word) (w : PWord) (s : State), s.corcon.psv = true → a.getLsbD 15 = true →
    a.getLsbD 0 = false → progRead (s.psvpag ++ a.extractLsb' 1 14 ++ 0#1) s = some w →
    (∃ t, memRead .word a s = .ok (w.extractLsb' 0 16, t) ∧ t = { s with cur := t.cur })
    ∧ (∃ t, memRead .byte a s = .ok ((w.extractLsb' 0 8).setWidth 16, t)
      ∧ t = { s with cur := t.cur })
    ∧ ∃ t, memRead .byte (a + 1#16) s = .ok ((w.extractLsb' 8 8).setWidth 16, t)
      ∧ t = { s with cur := t.cur }

/-! ## Move and stack -/

/-- MOV between registers and memory, PUSH and POP among it (R160, R172, R173): the source's value
reaches the destination; no flag is written but through SR's own address. -/
def Obligations.mov_result : Prop :=
  ∀ (sz : Size) (wb : WReg) (dm : Mode) (wd : WReg) (sm : Mode) (ws : WReg) (s : State),
    srcReady sz sm ws s = true → dstReady sz dm wd (srcNext sz sm ws s) = true →
    ∃ t, exec (.movWsWd sz wb (.plain dm) wd (.plain sm) ws) s = .next t
      ∧ Ends (ahead 1 s.pc) (dstNext sz dm wd (srcVal sz sm ws s) (srcNext sz sm ws s)) t
      ∧ DstFrame sz dm wd (srcNext sz sm ws s) t
      ∧ (¬ dstIsCore sz dm wd (srcNext sz sm ws s) →
        SameWBut (pointerRegs sm ws ++ dstRegs dm wd) s t ∧ t.sr = s.sr)

/-- PUSH stores the register at W15 and moves W15 up by 2 (R172). -/
def Obligations.push_result : Prop :=
  ∀ (wb ws : WReg) (s : State), Memory.wf s.ram = true → pushReady s = true →
    ∃ t, exec (.movWsWd .word wb (.plain .postInc) 15#4 (.plain .direct) ws) s = .next t
      ∧ memRead .word (getW 15#4 s) t = .ok (getW ws s, t)
      ∧ getW 15#4 t = getW 15#4 s + 2#16
      ∧ SameWBut [15#4] s t ∧ SameMemoryBut .word (getW 15#4 s) s t ∧ t.sr = s.sr

/-- POP moves W15 down by 2 and gives the word there, which is not changed; no flag is written. An
address below 0x0800 is read all the same and leaves StackError pending (R173, R432). -/
def Obligations.pop_result : Prop :=
  ∀ (wb wd : WReg) (s : State),
    let a := (getW 15#4 s - 2#16) &&& 0xFFFE#16
    let v := readVal .word a (moved 15#4 (-2) s)
    (popReady s = true →
      ∃ t, exec (.movWsWd .word wb (.plain .direct) wd (.plain .preDec) 15#4) s = .next t
        ∧ getW wd t = fixedW wd v ∧ (wd ≠ 15#4 → getW 15#4 t = a)
        ∧ isInit wd t = true ∧ SameWBut [15#4, wd] s t ∧ t.ram = s.ram ∧ t.sr = s.sr)
    ∧ (a.toNat < 0x0800 → moduloOn s = false → previously (fun e => e.access.wroteSplim) s = false →
      readable .word a (moved 15#4 (-2) s) = true → cpuLevel s < stackLevel s →
      ∃ t, exec (.movWsWd .word wb (.plain .direct) wd (.plain .preDec) 15#4) s = .next t
        ∧ Ends (ahead 1 s.pc) { setW wd v (moved 15#4 (-2) s) with stackPending := true } t)

/-- A push or a pop out of bounds, or a push that wraps, is made and leaves StackError pending (R423,
D46), in every stack instruction: PUSH, POP, LNK, ULNK, the two pushes of CALL and RCALL, the two pops
of RETURN, RETLW and RETFIE. Out of bounds is above SPLIM by more than SPLIM_SLACK with the check
enabled (R431; the comparison is the spec's decision D13, log entry 42), or below 0x0800 (R432); a wrap
is W15 at 0xFFFE before a push, with the check enabled (R433). RETLW writes its register after the
pops' reads (R115, R116, log entry 66). -/
def Obligations.push_traps : Prop :=
  ∀ s : State, cpuLevel s < stackLevel s →
    let bad (ea : Word) (u : State) := ea.toNat < 0x0800
      ∨ (u.splimEn = true ∧ u.splim.toNat + u.dev.splimSlack < ea.toNat)
    let badPush (u : State) := bad (getW 15#4 u) u ∨ (u.splimEn = true ∧ getW 15#4 u = 0xFFFE#16)
    let badPop (u : State) := bad (popAddr u) u
    let popped (u : State) := (popHi u).extractLsb' 0 7 ++ (popLo u).extractLsb' 1 15 ++ 0#1
    let pops (u : State) := popMade u = true ∧ popMade (popNext u) = true
      ∧ (badPop u ∨ badPop (popNext u))
    (∀ wb ws : WReg, pushMade s = true → badPush s →
      ∃ t, exec (.movWsWd .word wb (.plain .postInc) 15#4 (.plain .direct) ws) s = .next t
        ∧ Ends (ahead 1 s.pc) { pushNext (getW ws s) s with stackPending := true } t)
    ∧ (∀ wb wd : WReg, popMade s = true → badPop s →
      ∃ t, exec (.movWsWd .word wb (.plain .direct) wd (.plain .preDec) 15#4) s = .next t
        ∧ Ends (ahead 1 s.pc) { setW wd (popVal s) (popNext s) with stackPending := true } t)
    ∧ (∀ lit : BitVec 13, pushMade s = true → badPush s →
      let u := setW 14#4 (getW 15#4 (pushNext (getW 14#4 s) s)) (pushNext (getW 14#4 s) s)
      ∃ t, exec (.lnk lit) s = .next t
        ∧ Ends (ahead 1 s.pc) { setW 15#4 (getW 15#4 u + (lit ++ 0#1).setWidth 16) u with
          stackPending := true } t)
    ∧ (let u := setW 15#4 (getW 14#4 s) s
      popMade u = true → badPop u →
      ∃ t, exec .ulnk s = .next t
        ∧ Ends (ahead 1 s.pc) { setW 14#4 (popVal u) (popNext u) with stackPending := true } t)
    ∧ (∀ (k : Nat) (p : PAddr) (i : Instr),
      ((∃ n1 n2, i = .call n1 n2 ∧ k = 2 ∧ p = n2 ++ n1 ++ 0#1)
        ∨ ∃ n, i = .rcall n ∧ k = 1 ∧ p = BitVec.ofInt 23 (s.pc.toNat + 2 + 2 * n.toInt)) →
      let ret := ahead k s.pc
      let u := pushNext (ret.extractLsb' 0 16) s
      pushMade s = true → pushMade u = true → badPush s ∨ badPush u →
      ∃ t, exec i s = .next t
        ∧ Ends p { pushTwo (ret.extractLsb' 0 16) ((ret.extractLsb' 16 7).setWidth 16) s with
          stackPending := true } t)
    ∧ (pops s → ∃ t, exec .ret s = .next t
      ∧ Ends (popped s) { popTwo s with stackPending := true } t)
    ∧ (∀ (sz : Size) (lit : BitVec 10) (wd : WReg), wd ≠ 15#4 →
      pops s → ∃ t, exec (.retlw sz lit wd) s = .next t
        ∧ Ends (popped s) { setWSized sz wd (lit.setWidth 16) (popTwo s) with stackPending := true } t)
    ∧ (pops s → ∃ t, exec .retfie s = .next t
      ∧ Ends (popped s) { popTwo s with
        sr := t.sr, corcon := t.corcon, stackPending := true } t
      ∧ srLow t = (popHi s).extractLsb' 8 8 ∧ srHigh t = srHigh s
      ∧ t.corcon = { s.corcon with ipl3 := (popHi s).getLsbD 7 })

/-- MOV f,Wnd (R163), MOV WREG,f (R164) and MOV #lit16,Wnd (R165). -/
def Obligations.mov_file_literal : Prop :=
  (∀ (f : BitVec 15) (wd : WReg) (s : State), readable .word (wordFileAddr f) s = true →
    ∃ t, exec (.movFWnd f wd) s = .next t
      ∧ Ends (ahead 1 s.pc) (setW wd (readVal .word (wordFileAddr f) s) s) t
      ∧ SameMemory s t ∧ SameWBut [wd] s t)
  ∧ (∀ (sz : Size) (f : BitVec 13) (s : State), writable sz (fileAddr f) s = true →
    ∃ t, exec (.movWregF sz f) s = .next t
      ∧ Ends (ahead 1 s.pc) (written sz (fileAddr f) (narrow sz (getW 0#4 s)) s) t
      ∧ SameMemoryBut sz (fileAddr f) s t)
  ∧ ∀ (lit : Word) (wd : WReg) (s : State), ∃ t, exec (.movLit16Wnd lit wd) s = .next t
      ∧ getW wd t = fixedW wd lit ∧ isInit wd t = true ∧ SameWBut [wd] s t
      ∧ Ends (ahead 1 s.pc) (setW wd lit s) t

/-- MOV.D: the low word is at the lower address or in the even register (R170, R171). -/
def Obligations.movd_result : Prop :=
  (∀ (wd : BitVec 3) (m : Mode) (ws : WReg) (s : State), doubleReady m ws s = true →
    ∃ t, exec (.movdLoad wd m ws) s = .next t
      ∧ Ends (ahead 1 s.pc) (setW ((wd ++ 0#1) + 1#4) (doubleVal m ws s).2
        (setW (wd ++ 0#1) (doubleVal m ws s).1 (doubleNext m ws s))) t
      ∧ SameMemory s t
      ∧ SameWBut ([wd ++ 0#1, (wd ++ 0#1) + 1#4] ++ pointerRegs m ws) s t)
  ∧ ∀ (m : Mode) (wd : WReg) (ws : BitVec 3) (s : State), doubleDstReady m wd s = true →
    ∃ t, exec (.movdStore m wd ws) s = .next t
      ∧ Ends (ahead 1 s.pc) (doubleDstNext m wd (getW (ws ++ 0#1) s)
        (getW ((ws ++ 0#1) + 1#4) s) s) t
      ∧ (m = .direct → SameMemory s t ∧ SameWBut [wd, wd + 1#4] s t)
      ∧ (m ≠ .direct → ∀ b, outside .word (operandAddr 4 m wd s) b →
        outside .word (operandAddr 4 m wd s + 2#16) b →
        Memory.read t.ram b = Memory.read s.ram b)

/-- PUSH.S saves W0 to W3 and five flags without touching the stack; POP.S restores them, marks W0 to
W3 and keeps the shadows (R175, R176). -/
def Obligations.shadow_result : Prop :=
  (∀ s : State, ∃ t, exec .pushS s = .next t ∧ t.pc = ahead 1 s.pc
    ∧ t = { s with pc := t.pc, shadow := t.shadow }
    ∧ t.shadow.w0 = getW 0#4 s ∧ t.shadow.w1 = getW 1#4 s ∧ t.shadow.w2 = getW 2#4 s
    ∧ t.shadow.w3 = getW 3#4 s ∧ t.shadow.n = s.sr.n ∧ t.shadow.ov = s.sr.ov
    ∧ t.shadow.z = s.sr.z ∧ t.shadow.c = s.sr.c ∧ t.shadow.dc = s.sr.dc)
  ∧ ∀ s : State, ∃ t, exec .popS s = .next t ∧ t.pc = ahead 1 s.pc
    ∧ t = { s with pc := t.pc, w := t.w, winit := t.winit, sr := t.sr, cur := t.cur }
    ∧ getW 0#4 t = s.shadow.w0 ∧ getW 1#4 t = s.shadow.w1 ∧ getW 2#4 t = s.shadow.w2
    ∧ getW 3#4 t = s.shadow.w3 ∧ (∀ n, n < 4#4 → isInit n t = true)
    ∧ SameWBut [0#4, 1#4, 2#4, 3#4] s t
    ∧ t.sr = { s.sr with n := s.shadow.n, ov := s.shadow.ov, z := s.shadow.z, c := s.shadow.c,
                         dc := s.shadow.dc }

/-- LNK pushes W14, makes it the frame pointer and moves W15 by the literal; ULNK undoes it (R180,
R181). -/
def Obligations.frame_result : Prop :=
  (∀ (lit : BitVec 13) (s : State), pushReady s = true →
    ∃ t, exec (.lnk lit) s = .next t
      ∧ Ends (ahead 1 s.pc)
        (let u := setW 14#4 (getW 15#4 (pushNext (getW 14#4 s) s)) (pushNext (getW 14#4 s) s)
         setW 15#4 (getW 15#4 u + (lit ++ 0#1).setWidth 16) u) t
      ∧ SameMemoryBut .word (getW 15#4 s) s t)
  ∧ ∀ s : State, popReady (setW 15#4 (getW 14#4 s) s) = true →
    ∃ t, exec .ulnk s = .next t
      ∧ Ends (ahead 1 s.pc) (setW 14#4 (popVal (setW 15#4 (getW 14#4 s) s))
        (popNext (setW 15#4 (getW 14#4 s) s))) t
      ∧ SameMemory s t ∧ SameWBut [14#4, 15#4] s t ∧ t.sr = s.sr

/-- SE and ZE: a byte, extended into the register, with N, Z and C as R185 and R186 say. -/
def Obligations.extend_result : Prop :=
  ∀ (wd : WReg) (m : Mode) (ws : WReg) (s : State), srcReady .byte m ws s = true →
    let b := srcVal .byte m ws s
    (∃ t, exec (.se wd m ws) s = .next t
      ∧ Ends (ahead 1 s.pc) { setW wd (if b.getLsbD 7 then b ||| 0xFF00#16 else b)
          (srcNext .byte m ws s) with
        sr := { s.sr with n := b.getLsbD 7, z := decide (b = 0#16), c := !b.getLsbD 7 } } t
      ∧ SameMemory s t ∧ SameWBut (wd :: pointerRegs m ws) s t)
    ∧ ∃ t, exec (.ze wd m ws) s = .next t
      ∧ Ends (ahead 1 s.pc) { setW wd b (srcNext .byte m ws s) with
        sr := { s.sr with n := false, z := decide (b = 0#16), c := true } } t
      ∧ SameMemory s t ∧ SameWBut (wd :: pointerRegs m ws) s t

/-! ## MCU ALU -/

/-- ADD in both forms: the sum modulo 2^w in the destination, the five flags by R202 to R206, the
overflow as a signed sum out of range (R210, R211). A data write to SR wins over the flags (R208). -/
def Obligations.add_result : Prop :=
  (∀ (sz : Size) (wb : WReg) (dm : Mode) (wd : WReg) (sm : Mode) (ws : WReg) (s : State),
    srcReady sz sm ws s = true → dstReady sz dm wd (srcNext sz sm ws s) = true →
    let a := narrow sz (getW wb s)
    let m := srcVal sz sm ws s
    let r := BitVec.ofNat 16 ((a.toNat + m.toNat) % 2 ^ Size.bits sz)
    let u := { srcNext sz sm ws s with sr := addStatus sz a m s.sr }
    ∃ t, exec (.addWbWsWd sz wb dm wd sm ws) s = .next t
      ∧ Ends (ahead 1 s.pc) (dstNext sz dm wd r u) t
      ∧ DstFrame sz dm wd (srcNext sz sm ws s) t
      ∧ (¬ dstIsCore sz dm wd (srcNext sz sm ws s) →
        SameWBut (pointerRegs sm ws ++ dstRegs dm wd) s t ∧ t.sr = addStatus sz a m s.sr))
  ∧ ∀ (sz : Size) (d : FileDest) (f : BitVec 13) (s : State),
    readable sz (fileAddr f) s = true → (d = .file → writable sz (fileAddr f) s = true) →
    let a := narrow sz (getW 0#4 s)
    let m := readVal sz (fileAddr f) s
    let r := BitVec.ofNat 16 ((a.toNat + m.toNat) % 2 ^ Size.bits sz)
    let u := { s with sr := addStatus sz a m s.sr }
    ∃ t, exec (.addF sz d f) s = .next t
      ∧ (d = .wreg → Ends (ahead 1 s.pc) (setWSized sz 0#4 r u) t ∧ SameMemory s t
        ∧ SameWBut [0#4] s t ∧ t.sr = addStatus sz a m s.sr)
      ∧ (d = .file → Ends (ahead 1 s.pc) (written sz (fileAddr f) r u) t
        ∧ SameMemoryBut sz (fileAddr f) s t)

/-- BSET sets one bit of the word at an even address and writes no flag but through SR's own address;
BTSC skips one instruction word when its bit is 0 and changes nothing else (R215, R216). -/
def Obligations.bit_result : Prop :=
  (∀ (bit : BitVec 4) (f : BitVec 12) (s : State), readable .word (bitFileAddr f) s = true →
    writable .word (bitFileAddr f) s = true →
    ∃ t v, exec (.bset bit f) s = .next t
      ∧ (∀ k, v.getLsbD k = ((readVal .word (bitFileAddr f) s).getLsbD k || decide (k = bit.toNat)))
      ∧ Ends (ahead 1 s.pc) (written .word (bitFileAddr f) v s) t
      ∧ SameMemoryBut .word (bitFileAddr f) s t)
  ∧ ∀ (bit : BitVec 4) (f : BitVec 12) (s : State), readable .word (bitFileAddr f) s = true →
    ∃ t, exec (.btsc bit f) s = .next t
      ∧ Ends (if (readVal .word (bitFileAddr f) s).getLsbD bit.toNat then ahead 1 s.pc
          else ahead 2 s.pc) s t

/-- The multi-bit shifts, on the integers, with N and Z of what the register then holds: by a literal,
and by a register amount up to 15; above 15 the register form is refused (R220, R221, R222). -/
def Obligations.shift_result : Prop :=
  ∀ (wb wd : WReg) (s : State),
    let asr (k : Nat) := BitVec.ofInt 16 ((getW wb s).toInt / 2 ^ k)
    let lsr (k : Nat) := BitVec.ofNat 16 ((getW wb s).toNat / 2 ^ k)
    let sl (k : Nat) := BitVec.ofNat 16 ((getW wb s).toNat * 2 ^ k)
    let shifted (v : Word) (t : State) :=
      Ends (ahead 1 s.pc) { setW wd v s with
        sr := { s.sr with n := (getW wd t).getLsbD 15, z := decide (getW wd t = 0#16) } } t
      ∧ getW wd t = fixedW wd v ∧ SameWBut [wd] s t ∧ SameMemory s t
    (∀ lit : BitVec 4,
      (∃ t, exec (.asrLit wb wd lit) s = .next t ∧ shifted (asr lit.toNat) t)
      ∧ (∃ t, exec (.lsrLit wb wd lit) s = .next t ∧ shifted (lsr lit.toNat) t)
      ∧ ∃ t, exec (.slLit wb wd lit) s = .next t ∧ shifted (sl lit.toNat) t)
    ∧ ∀ ws : WReg,
      ((getW ws s).toNat ≤ 15 →
        (∃ t, exec (.asrReg wb wd ws) s = .next t ∧ shifted (asr (getW ws s).toNat) t)
        ∧ (∃ t, exec (.lsrReg wb wd ws) s = .next t ∧ shifted (lsr (getW ws s).toNat) t)
        ∧ ∃ t, exec (.slReg wb wd ws) s = .next t ∧ shifted (sl (getW ws s).toNat) t)
      ∧ (15 < (getW ws s).toNat →
        exec (.asrReg wb wd ws) s = .refused .shiftAmount
        ∧ exec (.lsrReg wb wd ws) s = .refused .shiftAmount
        ∧ exec (.slReg wb wd ws) s = .refused .shiftAmount)

/-- The multiplies: the exact product of the operands, each signed or unsigned by the suffix, in the
pair (W15<0> apart), and no flag (R229 to R234). -/
def Obligations.mul_result : Prop :=
  (∀ (wb wd : WReg) (m : Mode) (ws : WReg) (s : State), srcReady .word m ws s = true →
    wd.isEven = true →
    let a := getW wb s
    let v := srcVal .word m ws s
    let done (p : BitVec 32) (t : State) :=
      Ends (ahead 1 s.pc) (setW (wd + 1#4) (p.extractLsb' 16 16)
        (setW wd (p.extractLsb' 0 16) (srcNext .word m ws s))) t
      ∧ SameMemory s t ∧ SameWBut ([wd, wd + 1#4] ++ pointerRegs m ws) s t ∧ t.sr = s.sr
      ∧ (wd ≠ 14#4 → getW (wd + 1#4) t ++ getW wd t = p)
    (∃ t p, exec (.mulUU wb wd m ws) s = .next t ∧ done p t ∧ p.toNat = a.toNat * v.toNat)
    ∧ (∃ t p, exec (.mulSS wb wd m ws) s = .next t ∧ done p t ∧ p.toInt = a.toInt * v.toInt)
    ∧ (∃ t p, exec (.mulSU wb wd m ws) s = .next t ∧ done p t
      ∧ p.toInt = a.toInt * (v.toNat : Int))
    ∧ ∃ t p, exec (.mulUS wb wd m ws) s = .next t ∧ done p t
      ∧ p.toInt = (a.toNat : Int) * v.toInt)
  ∧ ∀ (sz : Size) (f : BitVec 13) (s : State), readable sz (fileAddr f) s = true →
    let p := (narrow sz (getW 0#4 s)).toNat * (readVal sz (fileAddr f) s).toNat
    ∃ t, exec (.mulF sz f) s = .next t ∧ SameMemory s t ∧ t.sr = s.sr
      ∧ (sz = .word → Ends (ahead 1 s.pc) (setW 3#4 (getW 3#4 t) (setW 2#4 (getW 2#4 t) s)) t
        ∧ (getW 3#4 t).toNat * 2 ^ 16 + (getW 2#4 t).toNat = p ∧ SameWBut [2#4, 3#4] s t)
      ∧ (sz = .byte → Ends (ahead 1 s.pc) (setW 2#4 (getW 2#4 t) s) t
        ∧ (getW 2#4 t).toNat = p ∧ SameWBut [2#4] s t)

/-! ## DSP engine -/

/-- A DSP multiply gives the exact product, doubled in fractional mode, and for signed fractional
-1.0 x -1.0 one of three values; nothing else changes (R246, R247). -/
def Obligations.dsp_product : Prop :=
  ∀ (x y : Word) (s : State), (dspMul x y s).1 ∈ products x y s ∧ Like s (dspMul x y s).2

/-- MAC, MSC, MPY and MPY.N, in their two-register and square forms: the product is of the registers'
old values, a prefetch reads the word that memory held before the instruction (R115, R494), the pointers
move, the write back, the fetched words and the update are written in R272's order (log entry 23), and
the accumulator is updated with the exact result under the modes the instruction began with (R266,
R270, R272 to R276, R290). That a write back to SR wins over the update's bits is the spec's decision
D40 (log entry 58), that no MCU flag changes its decision D5, that the written back value is rounded
and saturated its decision D47 (log entry 48); that INTCON1's modes are those the instruction began
with is the model's choice (log entry 63). -/
def Obligations.multiply_accumulate : Prop :=
  ∀ (a : AccId) (xd yd : DspReg) (x y : Option PreAccess) (s : State),
    let done (f : Int → Int → Int) (wm wn : WReg) (b : WriteBack) (i : Instr) :=
      let ps := products (getW wm s) (getW wn s) s
      movesReady xd yd x y b s = true →
      (∀ p ∈ ps, accReady a (f (getAcc a s).toInt p) s = true) →
      ∃ t, ∃ p ∈ ps, exec i s = .next t
        ∧ Ends (ahead 1 s.pc) (mulNext (f (getAcc a s).toInt p) a xd yd x y b s) t
        ∧ WriteBackFrame b s t
        ∧ (¬ writeBackIsCore b s →
          SameWBut (prefetchRegs .x xd x ++ prefetchRegs .y yd y ++ writeBackRegs b) s t
          ∧ OnlyAccStatus s t)
        ∧ (b = .w13Inc → getW 13#4 s = 0x0042#16 → ∀ side : AccId,
          (writeBackValue a s).getLsbD (match side with | .accA => 13 | .accB => 12) = false
            ∨ (writeBackValue a s).getLsbD 10 = false → accS side t = false)
    (∀ (m : MulPair) (b : WriteBack),
      done (fun acc p => acc + p) (pairW m).1 (pairW m).2 b (.mac m a xd yd x y b)
      ∧ done (fun acc p => acc - p) (pairW m).1 (pairW m).2 b (.msc m a xd yd x y b)
      ∧ done (fun _ p => p) (pairW m).1 (pairW m).2 .none (.mpy m a xd yd x y)
      ∧ done (fun _ p => -p) (pairW m).1 (pairW m).2 .none (.mpyN m a xd yd x y))
    ∧ ∀ m : DspReg,
      done (fun acc p => acc + p) (dspW m) (dspW m) .none (.macSquare m a xd yd x y)
      ∧ done (fun _ p => p) (dspW m) (dspW m) .none (.mpySquare m a xd yd x y)

/-- ED and EDAC: the square of the register's old value goes to the accumulator, the difference of the
two prefetched words to the destination (R277, R278). -/
def Obligations.distance_result : Prop :=
  ∀ (m : DspReg) (a : AccId) (xd : DspReg) (x y : PreAccess) (s : State),
    let sx := prefetchNext .x x s
    let u := setW (dspW xd) (readVal .word (prefetchAddr .x x s) s
      - readVal .word (prefetchAddr .y y sx) sx) (prefetchNext .y y sx)
    let done (f : Int → Int) (i : Instr) :=
      prefetchReady .x x s = true → prefetchReady .y y sx = true →
      (∀ p ∈ products (getW (dspW m) s) (getW (dspW m) s) s, accReady a (f p) s = true) →
      ∃ t, ∃ p ∈ products (getW (dspW m) s) (getW (dspW m) s) s, exec i s = .next t
        ∧ Ends (ahead 1 s.pc) (accDone a (f p) s u) t ∧ SameMemory s t ∧ OnlyAccStatus s t
        ∧ SameWBut (prefetchRegs .x xd (some x) ++ prefetchRegs .y xd (some y)) s t
    done (fun p => p) (.ed m a xd x y)
      ∧ done (fun p => (getAcc a s).toInt + p) (.edac m a xd x y)

/-- What an accumulator update stores, by the saturation mode of the state `m` in which its instruction
began: the value, OX assigned, SX only set, and whether ArithmeticError becomes pending; nothing of
the other accumulator changes (R251 to R257, R290). That the trap enables of INTCON1 are those of `m` too
is the model's choice (log entry 63). -/
def Obligations.accumulator_update : Prop :=
  ∀ (x : AccId) (r : Int) (m s : State),
    let t := accUpdate x r m s
    t = { s with acca := t.acca, accb := t.accb, arithPending := t.arithPending
                 sr := { s.sr with oa := t.sr.oa, ob := t.sr.ob, sa := t.sr.sa, sb := t.sr.sb } }
      ∧ (∀ y, y ≠ x → getAcc y t = getAcc y s ∧ accO y t = accO y s ∧ accS y t = accS y s)
      ∧ (satOn x m = true → m.corcon.accsat = true →
        (accO x t = true ↔ Over31 r) ∧ (accS x t = true ↔ accS x s = true ∨ Over39 r)
        ∧ (¬ Over39 r → (getAcc x t).toInt = r)
        ∧ (Over39 r → getAcc x t = if 0 < r then 0x7FFFFFFFFF#40 else 0x8000000000#40))
      ∧ (satOn x m = true → m.corcon.accsat = false →
        accO x t = false ∧ (accS x t = true ↔ accS x s = true ∨ Over31 r)
        ∧ (¬ Over31 r → (getAcc x t).toInt = r)
        ∧ (Over31 r → getAcc x t = if 0 < r then 0x007FFFFFFF#40 else 0xFF80000000#40))
      ∧ (satOn x m = false →
        (accO x t = true ↔ Over31 r) ∧ (accS x t = true ↔ accS x s = true ∨ Over39 r)
        ∧ getAcc x t = BitVec.ofInt 40 r)
      ∧ (t.arithPending = true ↔ s.arithPending = true
        ∨ (accO x t = true ∧ overflowTrap x m = true)
        ∨ (satOn x m = false ∧ Over39 r ∧ m.intcon.covte = true))

/-- The round logic and data space write saturation, on the integers: conventional rounding adds half
and truncates, convergent rounding differs at a tie only, where the result is even, and saturation
clamps bits 39:16 to a signed 16-bit value (R260, R261). -/
def Obligations.round_saturate : Prop :=
  ∀ t : Acc40,
    (roundAcc true t).extractLsb' 16 24 = BitVec.ofInt 24 ((t.toInt + 0x8000) / 0x10000)
    ∧ (t.extractLsb' 0 16 ≠ 0x8000#16 → roundAcc false t = roundAcc true t)
    ∧ (t.extractLsb' 0 16 = 0x8000#16 → (roundAcc false t).getLsbD 16 = false
      ∧ (roundAcc false t).extractLsb' 16 24
        = t.extractLsb' 16 24 + if t.getLsbD 16 then 1#24 else 0#24)
    ∧ (satWrite true t).toInt = max (-0x8000) (min 0x7FFF (t.toInt / 0x10000))
    ∧ satWrite false t = t.extractLsb' 16 16

/-- ADD Acc, ADD source,Acc and LAC: the accumulator is updated with the exact sum, or with the word
scaled by the shift (R280, R281, R282). That LAC and the ADDs pass through the update, and so set OX
and SX, is the spec's decision D33 (log entry 48). -/
def Obligations.accumulator_load : Prop :=
  (∀ (a : AccId) (s : State),
    let r := s.acca.toInt + s.accb.toInt
    accReady a r s = true →
    ∃ t, exec (.addAcc a) s = .next t ∧ Ends (ahead 1 s.pc) (accDone a r s s) t
      ∧ SameMemory s t ∧ SameWBut [] s t ∧ OnlyAccStatus s t)
  ∧ ∀ (a : AccId) (wb : WReg) (sh : BitVec 4) (m : Mode) (ws : WReg) (s : State),
    srcReady .word m ws s = true →
    let x := scaledWord (srcVal .word m ws s) sh.toInt
    let done (r : Int) (i : Instr) := accReady a r s = true →
      ∃ t, exec i s = .next t
        ∧ Ends (ahead 1 s.pc) (accDone a r s (srcNext .word m ws s)) t
        ∧ SameMemory s t ∧ SameWBut (pointerRegs m ws) s t ∧ OnlyAccStatus s t
    done ((getAcc a s).toInt + x) (.addWsAcc a wb sh (.plain m) ws)
      ∧ done x (.lac a wb sh (.plain m) ws)

/-- SAC and SAC.R: the shifted accumulator, rounded by SAC.R, saturated when SATDW is set, to the
destination; no accumulator and no status bit changes but through its own address (R283, R284). -/
def Obligations.accumulator_store : Prop :=
  ∀ (a : AccId) (wb : WReg) (sh : BitVec 4) (m : Mode) (wd : WReg) (s : State),
    dstReady .word m wd s = true →
    let v := BitVec.ofInt 40 (scaledAcc (getAcc a s) sh.toInt)
    let done (w : Word) (i : Instr) := ∃ t, exec i s = .next t
      ∧ Ends (ahead 1 s.pc) (dstNext .word m wd w s) t
      ∧ DstFrame .word m wd s t
      ∧ (¬ dstIsCore .word m wd s → SameWBut (dstRegs m wd) s t ∧ t.sr = s.sr
        ∧ t.acca = s.acca ∧ t.accb = s.accb)
    done (satWrite s.corcon.satdw v) (.sac a wb sh (.plain m) wd)
      ∧ done (satWrite s.corcon.satdw (roundAcc s.corcon.rnd v)) (.sacR a wb sh (.plain m) wd)

/-- SFTAC: a shift of up to 16 either way updates the accumulator; beyond it the accumulator and its
bits are left and ArithmeticError becomes pending; a register amount outside -32 to 31 is refused
(R285, R440; that SFTAC sets OX and SX is the spec's decision D33, log entry 48). -/
def Obligations.accumulator_shift : Prop :=
  ∀ (a : AccId) (s : State),
    let done (k : Int) (i : Instr) :=
      (-16 ≤ k → k ≤ 16 → accReady a (scaledAcc (getAcc a s) k) s = true →
        ∃ t, exec i s = .next t
          ∧ Ends (ahead 1 s.pc) (accDone a (scaledAcc (getAcc a s) k) s s) t
          ∧ SameMemory s t ∧ SameWBut [] s t ∧ OnlyAccStatus s t)
      ∧ (k < -16 ∨ 16 < k → cpuLevel s < arithLevel s →
        ∃ t, exec i s = .next t ∧ Ends (ahead 1 s.pc) { s with arithPending := true } t)
    (∀ lit : BitVec 6, done lit.toInt (.sftacLit a lit))
    ∧ ∀ wb : WReg,
      (-32 ≤ (getW wb s).toInt → (getW wb s).toInt ≤ 31 →
        done (getW wb s).toInt (.sftacReg a wb))
      ∧ ((getW wb s).toInt < -32 ∨ 31 < (getW wb s).toInt →
        exec (.sftacReg a wb) s = .refused .sftacAmount)

/-! ## Divide -/

/-- Each execution of each divide: the first samples the operands, the following ones count while W0,
W1 and the divisor are untouched, the eighteenth leaves quotient and remainder; a broken sequence
loses its record, and a zero divisor raises ArithmeticError. Only W0, W1 and the flags change
(R301 to R311). -/
def Obligations.divide_executions : Prop :=
  ∀ (k : DivKind) (m n : WReg) (s : State), n ≠ 0#4 → n ≠ 1#4 →
    (k = .sd ∨ k = .ud → m.isEven = true) →
    (firstExecution s = true → divisor k n s ≠ 0 →
      ∃ t, exec (divInstr k m n) s = .next t ∧ DivideFrame s t ∧ t.arithPending = s.arithPending
        ∧ ∃ r, t.dv = some r ∧ r.pc0 = s.pc ∧ r.iter = 1 ∧ r.dn = getW n s
          ∧ r.w0 = getW 0#4 t ∧ r.w1 = getW 1#4 t
          ∧ dividend k m s = r.q * divisor k n s + r.r
          ∧ r.r.natAbs < (divisor k n s).natAbs
          ∧ (0 ≤ dividend k m s → 0 ≤ r.r) ∧ (dividend k m s ≤ 0 → r.r ≤ 0)
          ∧ r.ok = quotientFits k r.q)
    ∧ (firstExecution s = true → divisor k n s = 0 → cpuLevel s < arithLevel s →
      ∃ t, exec (divInstr k m n) s = .next t ∧ DivideFrame s t ∧ t.arithPending = true
        ∧ t.dv = none)
    ∧ (firstExecution s = false → ∀ r, s.dv = some r → continues r n s = true →
      ∃ t, exec (divInstr k m n) s = .next t ∧ DivideFrame s t ∧ t.arithPending = s.arithPending
        ∧ (r.iter ≠ 17 → t.dv = some { r with
          iter := r.iter + 1, w0 := getW 0#4 t, w1 := getW 1#4 t })
        ∧ (r.iter = 17 → t.dv = none)
        ∧ (r.iter = 17 → r.ok = true →
          getW 0#4 t = BitVec.ofInt 16 r.q ∧ getW 1#4 t = BitVec.ofInt 16 r.r))
    ∧ (firstExecution s = false → (∀ r, s.dv = some r → continues r n s = false) →
      ∃ t, exec (divInstr k m n) s = .next t ∧ DivideFrame s t ∧ t.arithPending = s.arithPending
        ∧ t.dv = none)

/-- Eighteen executions under REPEAT #17, with nothing presented between them: the remainder is less
than the divisor and has the dividend's sign, quotient times divisor plus remainder is the dividend,
RA is cleared, and execution goes on after the divide (R302 to R307). -/
def Obligations.divide_in_eighteen : Prop :=
  ∀ (k : DivKind) (m n : WReg) (s : State), n ≠ 0#4 → n ≠ 1#4 →
    (k = .sd ∨ k = .ud → m.isEven = true) → s.sr.ra = true → s.rptFresh = true →
    s.rcount = 17#14 → loopActive s = false → Config.ramBase ≤ (getW 15#4 s).toNat →
    divisor k n s ≠ 0 → quotientFits k ((dividend k m s).tdiv (divisor k n s)) = true →
    let value (w : Word) : Int := match k with
      | .sw | .sd | .frac => w.toInt
      | .uw | .ud => (w.toNat : Int)
    ∃ t, runTimes (divInstr k m n) 18 s = some t
      ∧ dividend k m s = value (getW 0#4 t) * divisor k n s + value (getW 1#4 t)
      ∧ (value (getW 1#4 t)).natAbs < (divisor k n s).natAbs
      ∧ (0 ≤ dividend k m s → 0 ≤ value (getW 1#4 t))
      ∧ (dividend k m s ≤ 0 → value (getW 1#4 t) ≤ 0)
      ∧ t.pc = ahead 1 s.pc ∧ t.sr.ra = false ∧ t.rcount = 0#14 ∧ t.dv = none
      ∧ SameWBut [0#4, 1#4] s t ∧ SameMemory s t

/-! ## Program flow -/

/-- CALL and RCALL push the address of the next instruction, low word first, the high word
zero-extended, and jump; no flag is written (R322, R323). GOTO and BRA jump and do nothing else (R325,
R326), a branch by -1 to its own address. How the two words of CALL and GOTO hold the target is general
knowledge (R147, log entry 11). -/
def Obligations.call_result : Prop :=
  (∀ (n1 : BitVec 15) (n2 : BitVec 7) (s : State),
    let ret := s.pc + 4#23
    pushTwoReady (ret.extractLsb' 0 16) s = true →
    ∃ t, exec (.call n1 n2) s = .next t
      ∧ Ends (n2 ++ n1 ++ 0#1) (pushTwo (ret.extractLsb' 0 16)
        ((ret.extractLsb' 16 7).setWidth 16) s) t
      ∧ StackedTwo (ret.extractLsb' 0 16) ((ret.extractLsb' 16 7).setWidth 16) s t
      ∧ t.sr = s.sr)
  ∧ (∀ (n : BitVec 16) (s : State),
    let ret := s.pc + 2#23
    pushTwoReady (ret.extractLsb' 0 16) s = true →
    ∃ t, exec (.rcall n) s = .next t
      ∧ Ends (BitVec.ofInt 23 (s.pc.toNat + 2 + 2 * n.toInt)) (pushTwo (ret.extractLsb' 0 16)
        ((ret.extractLsb' 16 7).setWidth 16) s) t
      ∧ StackedTwo (ret.extractLsb' 0 16) ((ret.extractLsb' 16 7).setWidth 16) s t
      ∧ t.sr = s.sr)
  ∧ ∀ s : State,
    (∀ (n1 : BitVec 15) (n2 : BitVec 7),
      exec (.goto n1 n2) s = .next { s with pc := n2 ++ n1 ++ 0#1 })
    ∧ (∀ n : BitVec 16,
      exec (.bra n) s = .next { s with pc := BitVec.ofInt 23 (s.pc.toNat + 2 + 2 * n.toInt) })
    ∧ exec (.bra 0xFFFF#16) s = .next s

/-- NOP moves the pc past itself and changes nothing else, may be a REPEAT target, and may be the last
instruction of a DO loop (R340). -/
def Obligations.nop_result : Prop :=
  ∀ s : State, exec .nop s = .next { s with pc := s.pc + 2#23 }
    ∧ preCheck .nop s = none
    ∧ ∀ t : State, isTarget s = false → t.loop.start ≠ t.loop.stop →
      nearEndWrite s t = false → lastCheck .nop s t = none

/-- RETURN and RETLW pop the return address; RETLW then writes its register, in byte mode only its
low byte; no flag and no byte of memory changes (R330, R331). -/
def Obligations.return_result : Prop :=
  (∀ s : State, popTwoReady s = true →
    ∃ t, exec .ret s = .next t
      ∧ Ends ((popHi s).extractLsb' 0 7 ++ (popLo s).extractLsb' 1 15 ++ 0#1) (popTwo s) t
      ∧ SameMemory s t ∧ SameWBut [15#4] s t ∧ t.sr = s.sr)
  ∧ ∀ (sz : Size) (lit : BitVec 10) (wd : WReg) (s : State), wd ≠ 15#4 →
    popTwoReady s = true →
    ∃ t, exec (.retlw sz lit wd) s = .next t
      ∧ Ends ((popHi s).extractLsb' 0 7 ++ (popLo s).extractLsb' 1 15 ++ 0#1)
        (setWSized sz wd (lit.setWidth 16) (popTwo s)) t
      ∧ getW wd t = (match sz with
        | .word => lit.setWidth 16
        | .byte => (getW wd s).extractLsb' 8 8 ++ lit.extractLsb' 0 8)
      ∧ SameMemory s t ∧ SameWBut [15#4, wd] s t ∧ t.sr = s.sr

/-- RETFIE pops the two words of an exception entry, restores SRL whatever NSTDIS is, and IPL3; DC and
SRH are not restored (R332, R455). -/
def Obligations.retfie_result : Prop :=
  ∀ s : State, popTwoReady s = true →
    ∃ t, exec .retfie s = .next t
      ∧ Ends ((popHi s).extractLsb' 0 7 ++ (popLo s).extractLsb' 1 15 ++ 0#1)
        { popTwo s with sr := t.sr, corcon := t.corcon } t
      ∧ srLow t = (popHi s).extractLsb' 8 8 ∧ srHigh t = srHigh s
      ∧ t.corcon = { s.corcon with ipl3 := (popHi s).getLsbD 7 }
      ∧ SameMemory s t ∧ SameWBut [15#4] s t

/-! ## Loops -/

/-- REPEAT by a literal (R362): RCOUNT, RA when the count is not 0, `rpt_fresh`, and the pc; the REPEAT
rule does not apply to the step of the REPEAT itself. -/
def Obligations.repeat_start : Prop :=
  ∀ (lit : BitVec 14) (s : State),
    exec (.repeatLit lit) s = .next { s with
      rcount := lit, sr := { s.sr with ra := decide (lit ≠ 0#14) }, rptFresh := true
      pc := s.pc + 2#23 }
    ∧ ∀ u, runInstr (.repeatLit lit) s = .next u →
      u.rcount = lit ∧ u.sr.ra = decide (lit ≠ 0#14) ∧ u.rptFresh = true ∧ u.pc = s.pc + 2#23

/-- REPEAT by a register that holds a 14-bit count (R363, D17), and the REPEAT rule of the step: with RA
set and RCOUNT at 0 the loop is over, with RCOUNT not 0 it is decremented and the pc stays (R364). A
REPEAT of any count that a forbidden target follows is refused, and so is a forbidden target that is
about to run with RA set, or with `rpt_fresh` set, which is so from a REPEAT to the end of its target's
first execution (R366, R80, log entry 18); an exception entered in front of the target keeps it with
W15, so that `rpt_fresh` is 1 again where it runs (log entry 55). -/
def Obligations.repeat_rule : Prop :=
  (∀ (wn : WReg) (s : State), (getW wn s).toNat < 2 ^ 14 →
    exec (.repeatReg wn) s = .next { s with
      rcount := (getW wn s).setWidth 14, rptFresh := true, pc := s.pc + 2#23
      sr := { s.sr with ra := decide ((getW wn s).setWidth 14 ≠ 0#14) } })
  ∧ (∀ (i : Instr) (s t u : State), isRepeat i = false → s.sr.ra = true → loopActive t = false →
    loopActive s = false → t.cur.reset = false → complete i s t = .ok u →
    u.rptFresh = false
      ∧ (t.rcount = 0#14 → u.rcount = 0#14 ∧ u.sr.ra = false ∧ u.pc = t.pc)
      ∧ (t.rcount ≠ 0#14 → u.rcount = t.rcount - 1#14 ∧ u.sr.ra = t.sr.ra ∧ u.pc = s.pc))
  ∧ (∀ (i : Instr) (s t u : State), t.cur.reset = false → complete i s t = .ok u →
    (∀ x, x ∈ u.targets ↔ x ∈ s.targets ∧ x ≠ (s.pc, getW 15#4 s))
      ∧ (isRepeat i = false → u.rptFresh = false))
  ∧ (∀ (e : Exception) (s t : State), takeException e s = .ok t →
    (∀ x ∈ s.targets, x ∈ t.targets)
      ∧ (s.rptFresh = true → (s.pc, getW 15#4 s) ∈ t.targets ∧ t.rptFresh = false))
  ∧ (∀ s : State, resumeTarget s = { s with
      rptFresh := decide (s.rptFresh = true ∨ (s.pc, getW 15#4 s) ∈ s.targets) })
  ∧ ∀ s : State,
    let bad (i : Instr) :=
      (s.sr.ra = true ∨ s.rptFresh = true → runInstr i s = .refused .repeatTarget)
      ∧ ((∃ w, progRead (ahead 1 s.pc) s = some w ∧ decode w (progRead (ahead 2 s.pc) s) = .ok i) →
        (∀ lit, runInstr (.repeatLit lit) s = .refused .repeatTarget)
          ∧ ∀ wn, runInstr (.repeatReg wn) s = .refused .repeatTarget)
    (∀ n1 n2, bad (.call n1 n2) ∧ bad (.goto n1 n2)) ∧ (∀ n, bad (.rcall n) ∧ bad (.bra n))
      ∧ bad .ret ∧ (∀ sz lit wd, bad (.retlw sz lit wd)) ∧ bad .retfie ∧ (∀ k f, bad (.btsc k f))
      ∧ (∀ lit, bad (.repeatLit lit) ∧ bad (.disi lit)) ∧ (∀ wn, bad (.repeatReg wn))
      ∧ (∀ lit n, bad (.doLit lit n)) ∧ (∀ wn n, bad (.doReg wn n))
      ∧ bad .ulnk ∧ (∀ lit, bad (.lnk lit)) ∧ (∀ lit, bad (.pwrsv lit)) ∧ bad .reset
      ∧ (∀ wd m ws, bad (.movdLoad wd m ws)) ∧ ∀ m wd ws, bad (.movdStore m wd ws)

/-- A register ADD as the REPEAT target runs RCOUNT + 1 times: with RCOUNT = n it adds n + 1 times, and RA
is then clear and the pc past it (R364; what each step of any target does is `repeat_rule`). -/
def Obligations.repeat_runs : Prop :=
  ∀ (wd ws : WReg) (s : State), wd ≠ ws → wd ≠ 15#4 → s.sr.ra = true → loopActive s = false →
    Config.ramBase ≤ (getW 15#4 s).toNat →
    ∃ t, runTimes (.addWbWsWd .word wd .direct wd .direct ws) (s.rcount.toNat + 1) s = some t
      ∧ getW wd t = getW wd s + BitVec.ofNat 16 (s.rcount.toNat + 1) * getW ws s
      ∧ t.rcount = 0#14 ∧ t.sr.ra = false ∧ t.pc = ahead 1 s.pc ∧ SameWBut [wd] s t
      ∧ SameMemory s t

/-- DO by a literal or a register (whose two top bits are not used): the loop registers, DL, and the
shadows, which keep their content or take the outer loop's beyond two loops; lengths -2, -1 and 0,
addresses past bit 21 and an eighth level are refused (R372, R373, R376). -/
def Obligations.do_start : Prop :=
  ∀ (i : Instr) (c : BitVec 14) (n : BitVec 16) (s : State),
    (i = .doLit c n ∨ ∃ wn, i = .doReg wn n ∧ c = (getW wn s).setWidth 14) →
    let start := s.pc + 4#23
    let stop := BitVec.ofInt 23 (start.toNat + 2 * n.toInt)
    (n.toInt = -2 ∨ n.toInt = -1 ∨ n.toInt = 0 → exec i s = .refused .doLength)
    ∧ (¬ (n.toInt = -2 ∨ n.toInt = -1 ∨ n.toInt = 0) →
      (start.getLsbD 22 = true ∨ stop.getLsbD 22 = true → exec i s = .refused .doAddress)
      ∧ (start.getLsbD 22 = false → stop.getLsbD 22 = false →
        (s.corcon.dl = 7#3 → exec i s = .refused .doNesting)
        ∧ (s.corcon.dl ≠ 7#3 → ∃ t, exec i s = .next t
          ∧ t = { s with pc := start, loop := t.loop, loopShadow := t.loopShadow
                         corcon := { s.corcon with dl := s.corcon.dl + 1#3 }, draws := t.draws }
          ∧ 0#1 ++ t.loop.start = start ∧ 0#1 ++ t.loop.stop = stop ∧ t.loop.count = c
          ∧ loopActive t = true
          ∧ (t.loopShadow = s.loop ∨ (2 ≤ s.corcon.dl.toNat ∧ t.loopShadow = s.loopShadow)))))

/-- The end of a DO iteration, at the instruction at DOEND: with DCOUNT not 0 and no ripe request it
goes on at DOSTART with DCOUNT less 1; otherwise DL drops by 1, the pc stays past the loop, and at
two loops the outer one's registers return (R374, R375, R377). An instruction that may not end a loop,
a REPEAT target, the one instruction of a loop, and one near which R381 forbids a write that was made,
are refused (R380, R381, log entries 19 and 67). -/
def Obligations.do_end : Prop :=
  ∀ (i : Instr) (s t : State), loopActive s = true → t.corcon.dl = s.corcon.dl → t.loop = s.loop →
    s.pc = 0#1 ++ s.loop.stop → t.cur.reset = false →
    let mayNotEnd := s.sr.ra = true ∨ s.rptFresh = true ∨ match i with
      | .call _ _ | .rcall _ | .goto _ _ | .bra _ | .btsc _ _ | .ret | .retfie | .retlw _ _ _
      | .repeatLit _ | .repeatReg _ | .doLit _ _ | .doReg _ _ | .disi _ => True
      | _ => False
    let did (p : Access → Bool) (k : Nat) := ∃ e, s.hist[k]? = some e ∧ p e.access = true
    let written := t.cur.wroteLoop = true ∨ did (fun a => a.wroteLoop) 0
      ∨ did (fun a => a.wroteLoop) 1 ∨ did (fun a => a.wrotePriority) 1
      ∨ did (fun a => a.wrotePriority) 2
    (mayNotEnd → complete i s t = .error .doLast)
    ∧ (¬ mayNotEnd → s.loop.start = s.loop.stop → complete i s t = .error .doLength)
    ∧ (¬ mayNotEnd → s.loop.start ≠ s.loop.stop → written → complete i s t = .error .doHazard)
    ∧ (¬ mayNotEnd → s.loop.start ≠ s.loop.stop → ¬ written → 0x0800 ≤ (getW 15#4 t).toNat ∨ t.cur.stackEA = true →
      (t.loop.count ≠ 0#14 → t.edt ≠ .ripe →
        ∃ u, complete i s t = .ok u ∧ u.pc = 0#1 ++ s.loop.start
          ∧ u.loop = { s.loop with count := s.loop.count - 1#14 } ∧ u.corcon = t.corcon
          ∧ u.loopShadow = t.loopShadow ∧ u.edt = ageEdt t.edt)
      ∧ (t.loop.count = 0#14 ∨ t.edt = .ripe → s.corcon.dl ≠ 2#3 →
        ∃ u, complete i s t = .ok u ∧ u.pc = t.pc
          ∧ u.corcon = { t.corcon with dl := t.corcon.dl - 1#3 }
          ∧ u.loop.start = s.loop.start ∧ u.loop.stop = s.loop.stop
          ∧ (u.loop.count = 0#14 ∨ u.loop.count = 0x3FFF#14) ∧ (t.edt = .ripe → u.edt = .none))
      ∧ (t.loop.count = 0#14 ∨ t.edt = .ripe → s.corcon.dl = 2#3 →
        (t.loopShadow.stop ≠ s.loop.stop →
          ∃ u, complete i s t = .ok u ∧ u.pc = t.pc ∧ u.corcon = { t.corcon with dl := 1#3 }
            ∧ u.loop = t.loopShadow ∧ (t.edt = .ripe → u.edt = .none))
        ∧ (t.loopShadow.stop = s.loop.stop → complete i s t = .error .doSharedEnd)))

/-! ## System -/

/-- DISI loads DISICNT; PWRSV ends the run, the step after it being the spec's Halted (R400, R402,
R478). -/
def Obligations.system_result : Prop :=
  (∀ (lit : BitVec 14) (s : State), ∃ t, exec (.disi lit) s = .next t ∧ t.disicnt = lit
    ∧ t = { s with pc := s.pc + 2#23, disicnt := lit, cur := t.cur })
  ∧ (∀ (lit : BitVec 1) (s : State), ∃ t, exec (.pwrsv lit) s = .next t
    ∧ t = { s with pc := s.pc + 2#23, power := t.power }
    ∧ (lit = 0#1 → t.power = .sleep) ∧ (lit = 1#1 → t.power = .idle))
  ∧ ∀ s : State, s.power ≠ .run → step s = .fault .halted

/-- The countdown of DISICNT: a step takes off the cycles of its instruction, stopping at 0, and a step
that writes DISICNT takes none (R400, D37). The cycles are the base counts of R501 to R505, 1 more
where the instruction forms a source address from a register the one before it modified and no
exception was entered between them (R481, R506), and 1 or 2 more for a read through the PSV window,
outside a REPEAT, on its first iteration, or right after RETFIE (R506, C17). What counts as modifying
a register is said for MOV, CALL and the returns (R481, R484). That a skip over a word that is no
instruction, or is not implemented, takes 2 is the model's choice (log entry 59). -/
def Obligations.disi_countdown : Prop :=
  (∀ (lit : BitVec 14) (s u : State), runInstr (.disi lit) s = .next u → u.disicnt = lit)
  ∧ (∀ (i : Instr) (s t u : State), complete i s t = .ok u → t.cur.reset = false →
    t.cur.wroteDisi = true → u.disicnt = t.disicnt)
  ∧ (∀ (s t : State), t.cur.reset = false → t.cur.wroteDisi = false → ∀ stall : Nat,
    let depends := s.adjacent = true ∧ ∃ e r n, s.hist = e :: r ∧ n ∈ e.access.modified
      ∧ n ∈ t.cur.sourceEA
    (depends → stall = 1) → (¬ depends → stall = 0) →
    let psvPays := t.cur.psvRead = true ∧ (s.sr.ra = false ∨ s.rptFresh = true
      ∨ ∃ e r, s.hist = e :: r ∧ e.instr = .retfie)
    let takes (c : Nat) (i : Instr) := ∀ u, complete i s t = .ok u →
      (¬ psvPays → u.disicnt.toNat = t.disicnt.toNat - (c + stall))
      ∧ (psvPays → u.disicnt.toNat = t.disicnt.toNat - (c + stall + 1)
        ∨ u.disicnt.toNat = t.disicnt.toNat - (c + stall + 2))
    (∀ r m n, takes 2 (.movdLoad r m n) ∧ takes 2 (.movdStore m n r))
    ∧ (∀ n1 n2, takes 2 (.call n1 n2) ∧ takes 2 (.goto n1 n2))
    ∧ (∀ n, takes 2 (.rcall n) ∧ takes 2 (.bra n))
    ∧ (∀ c n, takes 2 (.doLit c n)) ∧ (∀ w n, takes 2 (.doReg w n))
    ∧ takes 3 .ret ∧ takes 3 .retfie ∧ (∀ sz lit w, takes 3 (.retlw sz lit w))
    ∧ (∀ k f,
      (t.pc ≠ s.pc + 4#23 → takes 1 (.btsc k f))
      ∧ (t.pc = s.pc + 4#23 →
        let two := ∃ w j, progRead (s.pc + 2#23) s = some w
          ∧ decode w (progRead (s.pc + 4#23) s) = .ok j ∧ j.words = 2
        (two → takes 3 (.btsc k f)) ∧ (¬ two → takes 2 (.btsc k f))))
    ∧ (s.pc ∈ s.skipNops → takes 0 .nop) ∧ (s.pc ∉ s.skipNops → takes 1 .nop)
    ∧ ∀ i : Instr, (match i with
        | .movdLoad _ _ _ | .movdStore _ _ _ | .call _ _ | .goto _ _ | .rcall _ | .bra _
        | .doLit _ _ | .doReg _ _ | .ret | .retfie | .retlw _ _ _ | .btsc _ _ | .nop
        | .tblrdl _ _ _ _ _ | .tblrdh _ _ _ _ _ | .tblwtl _ _ _ _ _ | .tblwth _ _ _ _ _ => False
        | _ => True) → takes 1 i)
  ∧ (∀ (sz : Size) (wb wd : WReg) (sm : Mode) (ws : WReg) (s t : State),
    exec (.movWsWd sz wb (.plain .direct) wd (.plain sm) ws) s = .next t → t.cur.reset = false →
    wd ∈ t.cur.modified ∧ (sm ≠ .direct → ws ∈ t.cur.sourceEA))
  ∧ (∀ (n1 : BitVec 15) (n2 : BitVec 7) (s t : State), exec (.call n1 n2) s = .next t →
    15#4 ∈ t.cur.modified)
  ∧ ∀ s t : State, exec .ret s = .next t → t.cur.modified = s.cur.modified

/-- The four table instructions are refused, whatever their operands (R405). -/
def Obligations.table_refused : Prop :=
  ∀ (sz : Size) (dm : Mode) (wd : WReg) (sm : Mode) (ws : WReg) (s : State),
    exec (.tblrdl sz dm wd sm ws) s = .refused .tableRead
      ∧ exec (.tblrdh sz dm wd sm ws) s = .refused .tableRead
      ∧ exec (.tblwtl sz dm wd sm ws) s = .refused .tableWrite
      ∧ exec (.tblwth sz dm wd sm ws) s = .refused .tableWrite

/-- Operand forms and situations to which the rules give no meaning are refused: an odd register pair,
a divisor in W0 or W1, a field `t` that does not fit the dividend and an odd pair of a divide (both
the model's own reading of R145 and R301, log entry 53), RETLW into W15, REPEAT by a register above 14
bits, two prefetches into one register, the register offset form (R170, R230, R301, R331, R363, R266,
R5 and G2); an indirect access with modulo or bit-reversed addressing on (R103), a source address from
W15 right after a write to SPLIM (R490), DOEND read right after a DO or a write to it (R493), be an
exception entered between the two or not (log entry 20), and a trap raised at its own level or above
(R457). -/
def Obligations.excluded_forms : Prop :=
  ∀ s : State,
    (∀ (wb wd : WReg) (m : Mode) (ws : WReg), wd.isEven = false →
      exec (.mulUU wb wd m ws) s = .refused .oddPair
        ∧ exec (.mulSS wb wd m ws) s = .refused .oddPair
        ∧ exec (.mulSU wb wd m ws) s = .refused .oddPair
        ∧ exec (.mulUS wb wd m ws) s = .refused .oddPair)
    ∧ (∀ (wd : BitVec 3) (ws : WReg), ws.isEven = false →
      exec (.movdLoad wd .direct ws) s = .refused .oddPair
        ∧ exec (.movdStore .direct ws wd) s = .refused .oddPair)
    ∧ (∀ t m n : WReg, n = 0#4 ∨ n = 1#4 →
      exec (.divSW t m n) s = .refused .divisorRegister
        ∧ exec (.divUW t m n) s = .refused .divisorRegister
        ∧ exec (.divSD t m n) s = .refused .divisorRegister
        ∧ exec (.divUD t m n) s = .refused .divisorRegister
        ∧ exec (.divF m n) s = .refused .divisorRegister)
    ∧ (∀ t m n : WReg, n ≠ 0#4 → n ≠ 1#4 →
      (t ≠ 0#4 → exec (.divSW t m n) s = .refused .dividendField
        ∧ exec (.divUW t m n) s = .refused .dividendField)
      ∧ (m.isEven = false → exec (.divSD t m n) s = .refused .oddPair
        ∧ exec (.divUD t m n) s = .refused .oddPair)
      ∧ (m.isEven = true → t ≠ m + 1#4 → exec (.divSD t m n) s = .refused .dividendField
        ∧ exec (.divUD t m n) s = .refused .dividendField))
    ∧ (∀ (sz : Size) (lit : BitVec 10), exec (.retlw sz lit 15#4) s = .refused .retlwStack)
    ∧ (∀ wn : WReg, 2 ^ 14 ≤ (getW wn s).toNat → exec (.repeatReg wn) s = .refused .repeatCount)
    ∧ (∀ (m : MulPair) (r : DspReg) (a : AccId) (xd : DspReg) (x y : PreAccess) (b : WriteBack),
      exec (.mac m a xd xd (some x) (some y) b) s = .refused .prefetchTwice
        ∧ exec (.msc m a xd xd (some x) (some y) b) s = .refused .prefetchTwice
        ∧ exec (.mpy m a xd xd (some x) (some y)) s = .refused .prefetchTwice
        ∧ exec (.mpyN m a xd xd (some x) (some y)) s = .refused .prefetchTwice
        ∧ exec (.macSquare r a xd xd (some x) (some y)) s = .refused .prefetchTwice
        ∧ exec (.mpySquare r a xd xd (some x) (some y)) s = .refused .prefetchTwice)
    ∧ (∀ (sz : Size) (wb wd ws : WReg) (dm sm : MovMode) (a : AccId) (sh : BitVec 4),
      exec (.movWsWd sz wb dm wd .offset ws) s = .refused .registerOffset
        ∧ exec (.movWsWd sz wb .offset wd sm ws) s = .refused .registerOffset
        ∧ exec (.addWsAcc a wb sh .offset ws) s = .refused .registerOffset
        ∧ exec (.lac a wb sh .offset ws) s = .refused .registerOffset
        ∧ exec (.sac a wb sh .offset wd) s = .refused .registerOffset
        ∧ exec (.sacR a wb sh .offset wd) s = .refused .registerOffset)
    ∧ (s.modcon.getLsbD 15 = true ∨ s.modcon.getLsbD 14 = true ∨ s.xbrev.getLsbD 15 = true →
      ∀ (role : Role) (n : WReg), isInit n s = true →
        useEA role n s = .error (.refused .moduloAddressing))
    ∧ (moduloOn s = false → ∀ e r, s.hist = e :: r → e.access.wroteSplim = true →
      (∀ (sz : Size) (wb wd : WReg) (dm m : Mode), m ≠ .direct →
        exec (.movWsWd sz wb (.plain dm) wd (.plain m) 15#4) s = .refused .splimHazard)
      ∧ exec .ret s = .refused .splimHazard ∧ exec .retfie s = .refused .splimHazard
      ∧ exec .ulnk s = .refused .splimHazard
      ∧ ∀ (sz : Size) (lit : BitVec 10) (wd : WReg), wd ≠ 15#4 →
        exec (.retlw sz lit wd) s = .refused .splimHazard)
    ∧ (∀ e r, s.hist = e :: r → isDo e.instr = true ∨ e.access.wroteDoend = true →
      memRead .word 0x003E#16 s = .error (.refused .doendRead)
      ∧ memRead .word 0x0040#16 s = .error (.refused .doendRead)
      ∧ ∀ a : Word, 0x003E#16 ≤ a → a ≤ 0x0041#16 →
        memRead .byte a s = .error (.refused .doendRead))
    ∧ (stackLevel s ≤ cpuLevel s → s.stackPending = false → pushMade s = true →
      pushTraps s = true → ∀ wb ws : WReg,
        exec (.movWsWd .word wb (.plain .postInc) 15#4 (.plain .direct) ws) s = .refused .trapNested)
    ∧ (arithLevel s ≤ cpuLevel s → s.arithPending = false → ∀ (a : AccId) (lit : BitVec 6),
      lit.toInt < -16 ∨ 16 < lit.toInt → exec (.sftacLit a lit) s = .refused .trapNested)

/-! ## Exceptions -/

/-- Taking an exception: the pc's low word, then SRL, IPL3 and the pc's high part are stacked, RA is
cleared, the CPU priority becomes the exception's, execution goes on at its vector, and nothing else
of R450's list changes. Pushes out of bounds are made and leave StackError pending, but for
StackError's own entry, whose pushes are not checked (R435). That the step ages a request for early
termination is log entry 22, what it keeps of the instruction before it log entry 20, and of a REPEAT
target in front of which it is entered log entry 55. -/
def Obligations.exception_entry : Prop :=
  ∀ (e : Exception) (s : State), entryStorage s = true →
    ∃ t, takeException e s = .ok t
      ∧ StackedTwo (s.pc.extractLsb' 0 16)
        (srLow s ++ BitVec.ofBool s.corcon.ipl3 ++ s.pc.extractLsb' 16 7) s t
      ∧ t = { s with
        w := t.w, ram := t.ram, cur := t.cur, draws := t.draws, disicnt := t.disicnt
        edt := ageEdt s.edt, adjacent := false, hist := noteEntry t.cur s.hist, pc := t.pc
        rptFresh := false, targets := t.targets
        stackPending := (s.stackPending && decide (e ≠ .stackError)) || entryTraps e s
        arithPending := s.arithPending && decide (e ≠ .arithmeticError)
        sr := { s.sr with ra := false, ipl := t.sr.ipl }
        corcon := { s.corcon with ipl3 := t.corcon.ipl3 } }
      ∧ t.disicnt.toNat ≤ s.disicnt.toNat
      ∧ t.targets = (if s.rptFresh then s.targets.insert (s.pc, getW 15#4 s) else s.targets)
      ∧ (match e with
        | .stackError => cpuLevel t = 8 + s.dev.stackLevel.toNat
            ∧ t.pc = s.dev.stackVector &&& 0x7FFFFE#23
        | .arithmeticError => cpuLevel t = 8 + s.dev.arithLevel.toNat
            ∧ t.pc = s.dev.arithVector &&& 0x7FFFFE#23
        | .interrupt q => t.corcon.ipl3 = s.corcon.ipl3 ∧ t.pc = q.vector &&& 0x7FFFFE#23
            ∧ t.sr.ipl = if s.intcon.nstdis then 7#3 else q.level)

/-- What is taken at a boundary: a reset before all, then a pending trap, the higher level first, then
the accepted interrupt request of the highest level, which must exceed the CPU level and, while
DISICNT counts, 6 (R400, R427). -/
def Obligations.exception_choice : Prop :=
  (∀ s : State, s.power = .run → (presented s).reset = true →
    step s = .next (deviceReset (openBoundary s)))
  ∧ (∀ (s u : State) (e : Exception), s.power = .run → (presented s).reset = false →
    acceptedException (presented s) (openBoundary s) = some (e, u) →
    step s = finish u (takeException e u)
      ∧ Like (openBoundary s) u
      ∧ (s.stackPending = true ∨ s.arithPending = true →
        (e = .stackError ∧ s.stackPending = true
          ∧ (s.arithPending = true → arithLevel s ≤ stackLevel s))
        ∨ (e = .arithmeticError ∧ s.arithPending = true
          ∧ (s.stackPending = true → stackLevel s ≤ arithLevel s)))
      ∧ (s.stackPending = false → s.arithPending = false →
        ∃ q ∈ (presented s).irqs, e = .interrupt q ∧ cpuLevel s < q.level.toNat
          ∧ (s.disicnt ≠ 0#14 → q.level = 7#3)
          ∧ ∀ q' ∈ (presented s).irqs, cpuLevel s < q'.level.toNat →
            (s.disicnt = 0#14 ∨ q'.level = 7#3) → q'.level.toNat ≤ q.level.toNat))
  ∧ ∀ s : State, acceptedException (presented s) (openBoundary s) = none ↔
    s.stackPending = false ∧ s.arithPending = false
      ∧ ∀ q ∈ (presented s).irqs, q.level.toNat ≤ cpuLevel s
        ∨ (s.disicnt ≠ 0#14 ∧ q.level.toNat ≤ 6)

/-- An exception entry followed at once by RETFIE returns to the interrupted instruction with the pc, SR,
CORCON, the W registers, the accumulators, RCOUNT and the DO registers as they were, RA included, so
that a REPEAT loop goes on (R450, R455); in front of a target that has not run, `rpt_fresh` is 1 again
when the target runs, so that a divide then samples its operands (R300, R307, log entry 55). SPLIM must
not have been written just before, since RETFIE reads through W15 (R490). -/
def Obligations.exception_round_trip : Prop :=
  ∀ (e : Exception) (s : State), Memory.wf s.ram = true → s.pc.getLsbD 0 = false →
    pushTwoReady (s.pc.extractLsb' 0 16) s = true →
    s.cur.wroteSplim = false → (∀ x ∈ s.hist.head?, x.access.wroteSplim = false) →
    ∃ t u, takeException e s = .ok t ∧ exec .retfie t = .next u
      ∧ u.pc = s.pc ∧ srWord u = srWord s ∧ corconWord u = corconWord s
      ∧ (∀ n, getW n u = getW n s)
      ∧ u.acca = s.acca ∧ u.accb = s.accb ∧ u.rcount = s.rcount ∧ u.loop = s.loop
      ∧ (s.rptFresh = true → (resumeTarget u).rptFresh = true) ∧ u.dv = s.dv
      ∧ ∀ b, outside .word (getW 15#4 s) b → outside .word (getW 15#4 s + 2#16) b →
        Memory.read u.ram b = Memory.read s.ram b
end

