-- ==== Sys2Proof/Laws/State.lean ====
section
/-! SUPPORT. One lemma per field per update of the state, each true by definition. -/

namespace Sys2Proof.Machine

/-! ### note -/

@[simp] theorem note_w (f : Access → Access) (s : State) : (note f s).w = s.w := rfl
@[simp] theorem note_winit (f : Access → Access) (s : State) : (note f s).winit = s.winit := rfl
@[simp] theorem note_pc (f : Access → Access) (s : State) : (note f s).pc = s.pc := rfl
@[simp] theorem note_acca (f : Access → Access) (s : State) : (note f s).acca = s.acca := rfl
@[simp] theorem note_accb (f : Access → Access) (s : State) : (note f s).accb = s.accb := rfl
@[simp] theorem note_sr (f : Access → Access) (s : State) : (note f s).sr = s.sr := rfl
@[simp] theorem note_corcon (f : Access → Access) (s : State) : (note f s).corcon = s.corcon := rfl
@[simp] theorem note_splim (f : Access → Access) (s : State) : (note f s).splim = s.splim := rfl
@[simp] theorem note_splimEn (f : Access → Access) (s : State) : (note f s).splimEn = s.splimEn := rfl
@[simp] theorem note_tblpag (f : Access → Access) (s : State) : (note f s).tblpag = s.tblpag := rfl
@[simp] theorem note_psvpag (f : Access → Access) (s : State) : (note f s).psvpag = s.psvpag := rfl
@[simp] theorem note_rcount (f : Access → Access) (s : State) : (note f s).rcount = s.rcount := rfl
@[simp] theorem note_loop (f : Access → Access) (s : State) : (note f s).loop = s.loop := rfl
@[simp] theorem note_modcon (f : Access → Access) (s : State) : (note f s).modcon = s.modcon := rfl
@[simp] theorem note_xmodsrt (f : Access → Access) (s : State) : (note f s).xmodsrt = s.xmodsrt := rfl
@[simp] theorem note_xmodend (f : Access → Access) (s : State) : (note f s).xmodend = s.xmodend := rfl
@[simp] theorem note_ymodsrt (f : Access → Access) (s : State) : (note f s).ymodsrt = s.ymodsrt := rfl
@[simp] theorem note_ymodend (f : Access → Access) (s : State) : (note f s).ymodend = s.ymodend := rfl
@[simp] theorem note_xbrev (f : Access → Access) (s : State) : (note f s).xbrev = s.xbrev := rfl
@[simp] theorem note_disicnt (f : Access → Access) (s : State) : (note f s).disicnt = s.disicnt := rfl
@[simp] theorem note_shadow (f : Access → Access) (s : State) : (note f s).shadow = s.shadow := rfl
@[simp] theorem note_loopShadow (f : Access → Access) (s : State) : (note f s).loopShadow = s.loopShadow := rfl
@[simp] theorem note_intcon (f : Access → Access) (s : State) : (note f s).intcon = s.intcon := rfl
@[simp] theorem note_edt (f : Access → Access) (s : State) : (note f s).edt = s.edt := rfl
@[simp] theorem note_rptFresh (f : Access → Access) (s : State) : (note f s).rptFresh = s.rptFresh := rfl
@[simp] theorem note_dv (f : Access → Access) (s : State) : (note f s).dv = s.dv := rfl
@[simp] theorem note_stackPending (f : Access → Access) (s : State) : (note f s).stackPending = s.stackPending := rfl
@[simp] theorem note_arithPending (f : Access → Access) (s : State) : (note f s).arithPending = s.arithPending := rfl
@[simp] theorem note_power (f : Access → Access) (s : State) : (note f s).power = s.power := rfl
@[simp] theorem note_ram (f : Access → Access) (s : State) : (note f s).ram = s.ram := rfl
@[simp] theorem note_prog (f : Access → Access) (s : State) : (note f s).prog = s.prog := rfl
@[simp] theorem note_dev (f : Access → Access) (s : State) : (note f s).dev = s.dev := rfl
@[simp] theorem note_inputs (f : Access → Access) (s : State) : (note f s).inputs = s.inputs := rfl
@[simp] theorem note_draws (f : Access → Access) (s : State) : (note f s).draws = s.draws := rfl
@[simp] theorem note_cur (f : Access → Access) (s : State) : (note f s).cur = f s.cur := rfl
@[simp] theorem note_hist (f : Access → Access) (s : State) : (note f s).hist = s.hist := rfl
@[simp] theorem note_adjacent (f : Access → Access) (s : State) : (note f s).adjacent = s.adjacent := rfl
@[simp] theorem note_targets (f : Access → Access) (s : State) : (note f s).targets = s.targets := rfl
@[simp] theorem note_skipNops (f : Access → Access) (s : State) : (note f s).skipNops = s.skipNops := rfl

/-! ### putW -/

@[simp] theorem putW_winit (n : WReg) (v : Word) (s : State) : (putW n v s).winit = s.winit := rfl
@[simp] theorem putW_pc (n : WReg) (v : Word) (s : State) : (putW n v s).pc = s.pc := rfl
@[simp] theorem putW_acca (n : WReg) (v : Word) (s : State) : (putW n v s).acca = s.acca := rfl
@[simp] theorem putW_accb (n : WReg) (v : Word) (s : State) : (putW n v s).accb = s.accb := rfl
@[simp] theorem putW_sr (n : WReg) (v : Word) (s : State) : (putW n v s).sr = s.sr := rfl
@[simp] theorem putW_corcon (n : WReg) (v : Word) (s : State) : (putW n v s).corcon = s.corcon := rfl
@[simp] theorem putW_splim (n : WReg) (v : Word) (s : State) : (putW n v s).splim = s.splim := rfl
@[simp] theorem putW_splimEn (n : WReg) (v : Word) (s : State) : (putW n v s).splimEn = s.splimEn := rfl
@[simp] theorem putW_tblpag (n : WReg) (v : Word) (s : State) : (putW n v s).tblpag = s.tblpag := rfl
@[simp] theorem putW_psvpag (n : WReg) (v : Word) (s : State) : (putW n v s).psvpag = s.psvpag := rfl
@[simp] theorem putW_rcount (n : WReg) (v : Word) (s : State) : (putW n v s).rcount = s.rcount := rfl
@[simp] theorem putW_loop (n : WReg) (v : Word) (s : State) : (putW n v s).loop = s.loop := rfl
@[simp] theorem putW_modcon (n : WReg) (v : Word) (s : State) : (putW n v s).modcon = s.modcon := rfl
@[simp] theorem putW_xmodsrt (n : WReg) (v : Word) (s : State) : (putW n v s).xmodsrt = s.xmodsrt := rfl
@[simp] theorem putW_xmodend (n : WReg) (v : Word) (s : State) : (putW n v s).xmodend = s.xmodend := rfl
@[simp] theorem putW_ymodsrt (n : WReg) (v : Word) (s : State) : (putW n v s).ymodsrt = s.ymodsrt := rfl
@[simp] theorem putW_ymodend (n : WReg) (v : Word) (s : State) : (putW n v s).ymodend = s.ymodend := rfl
@[simp] theorem putW_xbrev (n : WReg) (v : Word) (s : State) : (putW n v s).xbrev = s.xbrev := rfl
@[simp] theorem putW_disicnt (n : WReg) (v : Word) (s : State) : (putW n v s).disicnt = s.disicnt := rfl
@[simp] theorem putW_shadow (n : WReg) (v : Word) (s : State) : (putW n v s).shadow = s.shadow := rfl
@[simp] theorem putW_loopShadow (n : WReg) (v : Word) (s : State) : (putW n v s).loopShadow = s.loopShadow := rfl
@[simp] theorem putW_intcon (n : WReg) (v : Word) (s : State) : (putW n v s).intcon = s.intcon := rfl
@[simp] theorem putW_edt (n : WReg) (v : Word) (s : State) : (putW n v s).edt = s.edt := rfl
@[simp] theorem putW_rptFresh (n : WReg) (v : Word) (s : State) : (putW n v s).rptFresh = s.rptFresh := rfl
@[simp] theorem putW_dv (n : WReg) (v : Word) (s : State) : (putW n v s).dv = s.dv := rfl
@[simp] theorem putW_stackPending (n : WReg) (v : Word) (s : State) : (putW n v s).stackPending = s.stackPending := rfl
@[simp] theorem putW_arithPending (n : WReg) (v : Word) (s : State) : (putW n v s).arithPending = s.arithPending := rfl
@[simp] theorem putW_power (n : WReg) (v : Word) (s : State) : (putW n v s).power = s.power := rfl
@[simp] theorem putW_ram (n : WReg) (v : Word) (s : State) : (putW n v s).ram = s.ram := rfl
@[simp] theorem putW_prog (n : WReg) (v : Word) (s : State) : (putW n v s).prog = s.prog := rfl
@[simp] theorem putW_dev (n : WReg) (v : Word) (s : State) : (putW n v s).dev = s.dev := rfl
@[simp] theorem putW_inputs (n : WReg) (v : Word) (s : State) : (putW n v s).inputs = s.inputs := rfl
@[simp] theorem putW_draws (n : WReg) (v : Word) (s : State) : (putW n v s).draws = s.draws := rfl
@[simp] theorem putW_cur (n : WReg) (v : Word) (s : State) : (putW n v s).cur = s.cur := rfl
@[simp] theorem putW_hist (n : WReg) (v : Word) (s : State) : (putW n v s).hist = s.hist := rfl
@[simp] theorem putW_adjacent (n : WReg) (v : Word) (s : State) : (putW n v s).adjacent = s.adjacent := rfl
@[simp] theorem putW_targets (n : WReg) (v : Word) (s : State) : (putW n v s).targets = s.targets := rfl
@[simp] theorem putW_skipNops (n : WReg) (v : Word) (s : State) : (putW n v s).skipNops = s.skipNops := rfl

/-! ### markInit -/

@[simp] theorem markInit_w (n : WReg) (s : State) : (markInit n s).w = s.w := rfl
@[simp] theorem markInit_pc (n : WReg) (s : State) : (markInit n s).pc = s.pc := rfl
@[simp] theorem markInit_acca (n : WReg) (s : State) : (markInit n s).acca = s.acca := rfl
@[simp] theorem markInit_accb (n : WReg) (s : State) : (markInit n s).accb = s.accb := rfl
@[simp] theorem markInit_sr (n : WReg) (s : State) : (markInit n s).sr = s.sr := rfl
@[simp] theorem markInit_corcon (n : WReg) (s : State) : (markInit n s).corcon = s.corcon := rfl
@[simp] theorem markInit_splim (n : WReg) (s : State) : (markInit n s).splim = s.splim := rfl
@[simp] theorem markInit_splimEn (n : WReg) (s : State) : (markInit n s).splimEn = s.splimEn := rfl
@[simp] theorem markInit_tblpag (n : WReg) (s : State) : (markInit n s).tblpag = s.tblpag := rfl
@[simp] theorem markInit_psvpag (n : WReg) (s : State) : (markInit n s).psvpag = s.psvpag := rfl
@[simp] theorem markInit_rcount (n : WReg) (s : State) : (markInit n s).rcount = s.rcount := rfl
@[simp] theorem markInit_loop (n : WReg) (s : State) : (markInit n s).loop = s.loop := rfl
@[simp] theorem markInit_modcon (n : WReg) (s : State) : (markInit n s).modcon = s.modcon := rfl
@[simp] theorem markInit_xmodsrt (n : WReg) (s : State) : (markInit n s).xmodsrt = s.xmodsrt := rfl
@[simp] theorem markInit_xmodend (n : WReg) (s : State) : (markInit n s).xmodend = s.xmodend := rfl
@[simp] theorem markInit_ymodsrt (n : WReg) (s : State) : (markInit n s).ymodsrt = s.ymodsrt := rfl
@[simp] theorem markInit_ymodend (n : WReg) (s : State) : (markInit n s).ymodend = s.ymodend := rfl
@[simp] theorem markInit_xbrev (n : WReg) (s : State) : (markInit n s).xbrev = s.xbrev := rfl
@[simp] theorem markInit_disicnt (n : WReg) (s : State) : (markInit n s).disicnt = s.disicnt := rfl
@[simp] theorem markInit_shadow (n : WReg) (s : State) : (markInit n s).shadow = s.shadow := rfl
@[simp] theorem markInit_loopShadow (n : WReg) (s : State) : (markInit n s).loopShadow = s.loopShadow := rfl
@[simp] theorem markInit_intcon (n : WReg) (s : State) : (markInit n s).intcon = s.intcon := rfl
@[simp] theorem markInit_edt (n : WReg) (s : State) : (markInit n s).edt = s.edt := rfl
@[simp] theorem markInit_rptFresh (n : WReg) (s : State) : (markInit n s).rptFresh = s.rptFresh := rfl
@[simp] theorem markInit_dv (n : WReg) (s : State) : (markInit n s).dv = s.dv := rfl
@[simp] theorem markInit_stackPending (n : WReg) (s : State) : (markInit n s).stackPending = s.stackPending := rfl
@[simp] theorem markInit_arithPending (n : WReg) (s : State) : (markInit n s).arithPending = s.arithPending := rfl
@[simp] theorem markInit_power (n : WReg) (s : State) : (markInit n s).power = s.power := rfl
@[simp] theorem markInit_ram (n : WReg) (s : State) : (markInit n s).ram = s.ram := rfl
@[simp] theorem markInit_prog (n : WReg) (s : State) : (markInit n s).prog = s.prog := rfl
@[simp] theorem markInit_dev (n : WReg) (s : State) : (markInit n s).dev = s.dev := rfl
@[simp] theorem markInit_inputs (n : WReg) (s : State) : (markInit n s).inputs = s.inputs := rfl
@[simp] theorem markInit_draws (n : WReg) (s : State) : (markInit n s).draws = s.draws := rfl
@[simp] theorem markInit_cur (n : WReg) (s : State) : (markInit n s).cur = s.cur := rfl
@[simp] theorem markInit_hist (n : WReg) (s : State) : (markInit n s).hist = s.hist := rfl
@[simp] theorem markInit_adjacent (n : WReg) (s : State) : (markInit n s).adjacent = s.adjacent := rfl
@[simp] theorem markInit_targets (n : WReg) (s : State) : (markInit n s).targets = s.targets := rfl
@[simp] theorem markInit_skipNops (n : WReg) (s : State) : (markInit n s).skipNops = s.skipNops := rfl

/-! ### noteModified -/

@[simp] theorem noteModified_w (n : WReg) (s : State) : (noteModified n s).w = s.w := rfl
@[simp] theorem noteModified_winit (n : WReg) (s : State) : (noteModified n s).winit = s.winit := rfl
@[simp] theorem noteModified_pc (n : WReg) (s : State) : (noteModified n s).pc = s.pc := rfl
@[simp] theorem noteModified_acca (n : WReg) (s : State) : (noteModified n s).acca = s.acca := rfl
@[simp] theorem noteModified_accb (n : WReg) (s : State) : (noteModified n s).accb = s.accb := rfl
@[simp] theorem noteModified_sr (n : WReg) (s : State) : (noteModified n s).sr = s.sr := rfl
@[simp] theorem noteModified_corcon (n : WReg) (s : State) : (noteModified n s).corcon = s.corcon := rfl
@[simp] theorem noteModified_splim (n : WReg) (s : State) : (noteModified n s).splim = s.splim := rfl
@[simp] theorem noteModified_splimEn (n : WReg) (s : State) : (noteModified n s).splimEn = s.splimEn := rfl
@[simp] theorem noteModified_tblpag (n : WReg) (s : State) : (noteModified n s).tblpag = s.tblpag := rfl
@[simp] theorem noteModified_psvpag (n : WReg) (s : State) : (noteModified n s).psvpag = s.psvpag := rfl
@[simp] theorem noteModified_rcount (n : WReg) (s : State) : (noteModified n s).rcount = s.rcount := rfl
@[simp] theorem noteModified_loop (n : WReg) (s : State) : (noteModified n s).loop = s.loop := rfl
@[simp] theorem noteModified_modcon (n : WReg) (s : State) : (noteModified n s).modcon = s.modcon := rfl
@[simp] theorem noteModified_xmodsrt (n : WReg) (s : State) : (noteModified n s).xmodsrt = s.xmodsrt := rfl
@[simp] theorem noteModified_xmodend (n : WReg) (s : State) : (noteModified n s).xmodend = s.xmodend := rfl
@[simp] theorem noteModified_ymodsrt (n : WReg) (s : State) : (noteModified n s).ymodsrt = s.ymodsrt := rfl
@[simp] theorem noteModified_ymodend (n : WReg) (s : State) : (noteModified n s).ymodend = s.ymodend := rfl
@[simp] theorem noteModified_xbrev (n : WReg) (s : State) : (noteModified n s).xbrev = s.xbrev := rfl
@[simp] theorem noteModified_disicnt (n : WReg) (s : State) : (noteModified n s).disicnt = s.disicnt := rfl
@[simp] theorem noteModified_shadow (n : WReg) (s : State) : (noteModified n s).shadow = s.shadow := rfl
@[simp] theorem noteModified_loopShadow (n : WReg) (s : State) : (noteModified n s).loopShadow = s.loopShadow := rfl
@[simp] theorem noteModified_intcon (n : WReg) (s : State) : (noteModified n s).intcon = s.intcon := rfl
@[simp] theorem noteModified_edt (n : WReg) (s : State) : (noteModified n s).edt = s.edt := rfl
@[simp] theorem noteModified_rptFresh (n : WReg) (s : State) : (noteModified n s).rptFresh = s.rptFresh := rfl
@[simp] theorem noteModified_dv (n : WReg) (s : State) : (noteModified n s).dv = s.dv := rfl
@[simp] theorem noteModified_stackPending (n : WReg) (s : State) : (noteModified n s).stackPending = s.stackPending := rfl
@[simp] theorem noteModified_arithPending (n : WReg) (s : State) : (noteModified n s).arithPending = s.arithPending := rfl
@[simp] theorem noteModified_power (n : WReg) (s : State) : (noteModified n s).power = s.power := rfl
@[simp] theorem noteModified_ram (n : WReg) (s : State) : (noteModified n s).ram = s.ram := rfl
@[simp] theorem noteModified_prog (n : WReg) (s : State) : (noteModified n s).prog = s.prog := rfl
@[simp] theorem noteModified_dev (n : WReg) (s : State) : (noteModified n s).dev = s.dev := rfl
@[simp] theorem noteModified_inputs (n : WReg) (s : State) : (noteModified n s).inputs = s.inputs := rfl
@[simp] theorem noteModified_draws (n : WReg) (s : State) : (noteModified n s).draws = s.draws := rfl
@[simp] theorem noteModified_hist (n : WReg) (s : State) : (noteModified n s).hist = s.hist := rfl
@[simp] theorem noteModified_adjacent (n : WReg) (s : State) : (noteModified n s).adjacent = s.adjacent := rfl
@[simp] theorem noteModified_targets (n : WReg) (s : State) : (noteModified n s).targets = s.targets := rfl
@[simp] theorem noteModified_skipNops (n : WReg) (s : State) : (noteModified n s).skipNops = s.skipNops := rfl

/-! ### setW -/

@[simp] theorem setW_pc (n : WReg) (v : Word) (s : State) : (setW n v s).pc = s.pc := rfl
@[simp] theorem setW_acca (n : WReg) (v : Word) (s : State) : (setW n v s).acca = s.acca := rfl
@[simp] theorem setW_accb (n : WReg) (v : Word) (s : State) : (setW n v s).accb = s.accb := rfl
@[simp] theorem setW_sr (n : WReg) (v : Word) (s : State) : (setW n v s).sr = s.sr := rfl
@[simp] theorem setW_corcon (n : WReg) (v : Word) (s : State) : (setW n v s).corcon = s.corcon := rfl
@[simp] theorem setW_splim (n : WReg) (v : Word) (s : State) : (setW n v s).splim = s.splim := rfl
@[simp] theorem setW_splimEn (n : WReg) (v : Word) (s : State) : (setW n v s).splimEn = s.splimEn := rfl
@[simp] theorem setW_tblpag (n : WReg) (v : Word) (s : State) : (setW n v s).tblpag = s.tblpag := rfl
@[simp] theorem setW_psvpag (n : WReg) (v : Word) (s : State) : (setW n v s).psvpag = s.psvpag := rfl
@[simp] theorem setW_rcount (n : WReg) (v : Word) (s : State) : (setW n v s).rcount = s.rcount := rfl
@[simp] theorem setW_loop (n : WReg) (v : Word) (s : State) : (setW n v s).loop = s.loop := rfl
@[simp] theorem setW_modcon (n : WReg) (v : Word) (s : State) : (setW n v s).modcon = s.modcon := rfl
@[simp] theorem setW_xmodsrt (n : WReg) (v : Word) (s : State) : (setW n v s).xmodsrt = s.xmodsrt := rfl
@[simp] theorem setW_xmodend (n : WReg) (v : Word) (s : State) : (setW n v s).xmodend = s.xmodend := rfl
@[simp] theorem setW_ymodsrt (n : WReg) (v : Word) (s : State) : (setW n v s).ymodsrt = s.ymodsrt := rfl
@[simp] theorem setW_ymodend (n : WReg) (v : Word) (s : State) : (setW n v s).ymodend = s.ymodend := rfl
@[simp] theorem setW_xbrev (n : WReg) (v : Word) (s : State) : (setW n v s).xbrev = s.xbrev := rfl
@[simp] theorem setW_disicnt (n : WReg) (v : Word) (s : State) : (setW n v s).disicnt = s.disicnt := rfl
@[simp] theorem setW_shadow (n : WReg) (v : Word) (s : State) : (setW n v s).shadow = s.shadow := rfl
@[simp] theorem setW_loopShadow (n : WReg) (v : Word) (s : State) : (setW n v s).loopShadow = s.loopShadow := rfl
@[simp] theorem setW_intcon (n : WReg) (v : Word) (s : State) : (setW n v s).intcon = s.intcon := rfl
@[simp] theorem setW_edt (n : WReg) (v : Word) (s : State) : (setW n v s).edt = s.edt := rfl
@[simp] theorem setW_rptFresh (n : WReg) (v : Word) (s : State) : (setW n v s).rptFresh = s.rptFresh := rfl
@[simp] theorem setW_dv (n : WReg) (v : Word) (s : State) : (setW n v s).dv = s.dv := rfl
@[simp] theorem setW_stackPending (n : WReg) (v : Word) (s : State) : (setW n v s).stackPending = s.stackPending := rfl
@[simp] theorem setW_arithPending (n : WReg) (v : Word) (s : State) : (setW n v s).arithPending = s.arithPending := rfl
@[simp] theorem setW_power (n : WReg) (v : Word) (s : State) : (setW n v s).power = s.power := rfl
@[simp] theorem setW_ram (n : WReg) (v : Word) (s : State) : (setW n v s).ram = s.ram := rfl
@[simp] theorem setW_prog (n : WReg) (v : Word) (s : State) : (setW n v s).prog = s.prog := rfl
@[simp] theorem setW_dev (n : WReg) (v : Word) (s : State) : (setW n v s).dev = s.dev := rfl
@[simp] theorem setW_inputs (n : WReg) (v : Word) (s : State) : (setW n v s).inputs = s.inputs := rfl
@[simp] theorem setW_draws (n : WReg) (v : Word) (s : State) : (setW n v s).draws = s.draws := rfl
@[simp] theorem setW_hist (n : WReg) (v : Word) (s : State) : (setW n v s).hist = s.hist := rfl
@[simp] theorem setW_adjacent (n : WReg) (v : Word) (s : State) : (setW n v s).adjacent = s.adjacent := rfl
@[simp] theorem setW_targets (n : WReg) (v : Word) (s : State) : (setW n v s).targets = s.targets := rfl
@[simp] theorem setW_skipNops (n : WReg) (v : Word) (s : State) : (setW n v s).skipNops = s.skipNops := rfl

/-! ### setPc -/

@[simp] theorem setPc_w (a : PAddr) (s : State) : (setPc a s).w = s.w := rfl
@[simp] theorem setPc_winit (a : PAddr) (s : State) : (setPc a s).winit = s.winit := rfl
@[simp] theorem setPc_pc (a : PAddr) (s : State) : (setPc a s).pc = a := rfl
@[simp] theorem setPc_acca (a : PAddr) (s : State) : (setPc a s).acca = s.acca := rfl
@[simp] theorem setPc_accb (a : PAddr) (s : State) : (setPc a s).accb = s.accb := rfl
@[simp] theorem setPc_sr (a : PAddr) (s : State) : (setPc a s).sr = s.sr := rfl
@[simp] theorem setPc_corcon (a : PAddr) (s : State) : (setPc a s).corcon = s.corcon := rfl
@[simp] theorem setPc_splim (a : PAddr) (s : State) : (setPc a s).splim = s.splim := rfl
@[simp] theorem setPc_splimEn (a : PAddr) (s : State) : (setPc a s).splimEn = s.splimEn := rfl
@[simp] theorem setPc_tblpag (a : PAddr) (s : State) : (setPc a s).tblpag = s.tblpag := rfl
@[simp] theorem setPc_psvpag (a : PAddr) (s : State) : (setPc a s).psvpag = s.psvpag := rfl
@[simp] theorem setPc_rcount (a : PAddr) (s : State) : (setPc a s).rcount = s.rcount := rfl
@[simp] theorem setPc_loop (a : PAddr) (s : State) : (setPc a s).loop = s.loop := rfl
@[simp] theorem setPc_modcon (a : PAddr) (s : State) : (setPc a s).modcon = s.modcon := rfl
@[simp] theorem setPc_xmodsrt (a : PAddr) (s : State) : (setPc a s).xmodsrt = s.xmodsrt := rfl
@[simp] theorem setPc_xmodend (a : PAddr) (s : State) : (setPc a s).xmodend = s.xmodend := rfl
@[simp] theorem setPc_ymodsrt (a : PAddr) (s : State) : (setPc a s).ymodsrt = s.ymodsrt := rfl
@[simp] theorem setPc_ymodend (a : PAddr) (s : State) : (setPc a s).ymodend = s.ymodend := rfl
@[simp] theorem setPc_xbrev (a : PAddr) (s : State) : (setPc a s).xbrev = s.xbrev := rfl
@[simp] theorem setPc_disicnt (a : PAddr) (s : State) : (setPc a s).disicnt = s.disicnt := rfl
@[simp] theorem setPc_shadow (a : PAddr) (s : State) : (setPc a s).shadow = s.shadow := rfl
@[simp] theorem setPc_loopShadow (a : PAddr) (s : State) : (setPc a s).loopShadow = s.loopShadow := rfl
@[simp] theorem setPc_intcon (a : PAddr) (s : State) : (setPc a s).intcon = s.intcon := rfl
@[simp] theorem setPc_edt (a : PAddr) (s : State) : (setPc a s).edt = s.edt := rfl
@[simp] theorem setPc_rptFresh (a : PAddr) (s : State) : (setPc a s).rptFresh = s.rptFresh := rfl
@[simp] theorem setPc_dv (a : PAddr) (s : State) : (setPc a s).dv = s.dv := rfl
@[simp] theorem setPc_stackPending (a : PAddr) (s : State) : (setPc a s).stackPending = s.stackPending := rfl
@[simp] theorem setPc_arithPending (a : PAddr) (s : State) : (setPc a s).arithPending = s.arithPending := rfl
@[simp] theorem setPc_power (a : PAddr) (s : State) : (setPc a s).power = s.power := rfl
@[simp] theorem setPc_ram (a : PAddr) (s : State) : (setPc a s).ram = s.ram := rfl
@[simp] theorem setPc_prog (a : PAddr) (s : State) : (setPc a s).prog = s.prog := rfl
@[simp] theorem setPc_dev (a : PAddr) (s : State) : (setPc a s).dev = s.dev := rfl
@[simp] theorem setPc_inputs (a : PAddr) (s : State) : (setPc a s).inputs = s.inputs := rfl
@[simp] theorem setPc_draws (a : PAddr) (s : State) : (setPc a s).draws = s.draws := rfl
@[simp] theorem setPc_cur (a : PAddr) (s : State) : (setPc a s).cur = s.cur := rfl
@[simp] theorem setPc_hist (a : PAddr) (s : State) : (setPc a s).hist = s.hist := rfl
@[simp] theorem setPc_adjacent (a : PAddr) (s : State) : (setPc a s).adjacent = s.adjacent := rfl
@[simp] theorem setPc_targets (a : PAddr) (s : State) : (setPc a s).targets = s.targets := rfl
@[simp] theorem setPc_skipNops (a : PAddr) (s : State) : (setPc a s).skipNops = s.skipNops := rfl

/-! ### advance -/

@[simp] theorem advance_w (n : Nat) (s : State) : (advance n s).w = s.w := rfl
@[simp] theorem advance_winit (n : Nat) (s : State) : (advance n s).winit = s.winit := rfl
@[simp] theorem advance_pc (n : Nat) (s : State) : (advance n s).pc = ahead n s.pc := rfl
@[simp] theorem advance_acca (n : Nat) (s : State) : (advance n s).acca = s.acca := rfl
@[simp] theorem advance_accb (n : Nat) (s : State) : (advance n s).accb = s.accb := rfl
@[simp] theorem advance_sr (n : Nat) (s : State) : (advance n s).sr = s.sr := rfl
@[simp] theorem advance_corcon (n : Nat) (s : State) : (advance n s).corcon = s.corcon := rfl
@[simp] theorem advance_splim (n : Nat) (s : State) : (advance n s).splim = s.splim := rfl
@[simp] theorem advance_splimEn (n : Nat) (s : State) : (advance n s).splimEn = s.splimEn := rfl
@[simp] theorem advance_tblpag (n : Nat) (s : State) : (advance n s).tblpag = s.tblpag := rfl
@[simp] theorem advance_psvpag (n : Nat) (s : State) : (advance n s).psvpag = s.psvpag := rfl
@[simp] theorem advance_rcount (n : Nat) (s : State) : (advance n s).rcount = s.rcount := rfl
@[simp] theorem advance_loop (n : Nat) (s : State) : (advance n s).loop = s.loop := rfl
@[simp] theorem advance_modcon (n : Nat) (s : State) : (advance n s).modcon = s.modcon := rfl
@[simp] theorem advance_xmodsrt (n : Nat) (s : State) : (advance n s).xmodsrt = s.xmodsrt := rfl
@[simp] theorem advance_xmodend (n : Nat) (s : State) : (advance n s).xmodend = s.xmodend := rfl
@[simp] theorem advance_ymodsrt (n : Nat) (s : State) : (advance n s).ymodsrt = s.ymodsrt := rfl
@[simp] theorem advance_ymodend (n : Nat) (s : State) : (advance n s).ymodend = s.ymodend := rfl
@[simp] theorem advance_xbrev (n : Nat) (s : State) : (advance n s).xbrev = s.xbrev := rfl
@[simp] theorem advance_disicnt (n : Nat) (s : State) : (advance n s).disicnt = s.disicnt := rfl
@[simp] theorem advance_shadow (n : Nat) (s : State) : (advance n s).shadow = s.shadow := rfl
@[simp] theorem advance_loopShadow (n : Nat) (s : State) : (advance n s).loopShadow = s.loopShadow := rfl
@[simp] theorem advance_intcon (n : Nat) (s : State) : (advance n s).intcon = s.intcon := rfl
@[simp] theorem advance_edt (n : Nat) (s : State) : (advance n s).edt = s.edt := rfl
@[simp] theorem advance_rptFresh (n : Nat) (s : State) : (advance n s).rptFresh = s.rptFresh := rfl
@[simp] theorem advance_dv (n : Nat) (s : State) : (advance n s).dv = s.dv := rfl
@[simp] theorem advance_stackPending (n : Nat) (s : State) : (advance n s).stackPending = s.stackPending := rfl
@[simp] theorem advance_arithPending (n : Nat) (s : State) : (advance n s).arithPending = s.arithPending := rfl
@[simp] theorem advance_power (n : Nat) (s : State) : (advance n s).power = s.power := rfl
@[simp] theorem advance_ram (n : Nat) (s : State) : (advance n s).ram = s.ram := rfl
@[simp] theorem advance_prog (n : Nat) (s : State) : (advance n s).prog = s.prog := rfl
@[simp] theorem advance_dev (n : Nat) (s : State) : (advance n s).dev = s.dev := rfl
@[simp] theorem advance_inputs (n : Nat) (s : State) : (advance n s).inputs = s.inputs := rfl
@[simp] theorem advance_draws (n : Nat) (s : State) : (advance n s).draws = s.draws := rfl
@[simp] theorem advance_cur (n : Nat) (s : State) : (advance n s).cur = s.cur := rfl
@[simp] theorem advance_hist (n : Nat) (s : State) : (advance n s).hist = s.hist := rfl
@[simp] theorem advance_adjacent (n : Nat) (s : State) : (advance n s).adjacent = s.adjacent := rfl
@[simp] theorem advance_targets (n : Nat) (s : State) : (advance n s).targets = s.targets := rfl
@[simp] theorem advance_skipNops (n : Nat) (s : State) : (advance n s).skipNops = s.skipNops := rfl

/-! ### setAddFlags -/

@[simp] theorem setAddFlags_w (sz : Size) (a m : Word) (s : State) : (setAddFlags sz a m s).w = s.w := rfl
@[simp] theorem setAddFlags_winit (sz : Size) (a m : Word) (s : State) : (setAddFlags sz a m s).winit = s.winit := rfl
@[simp] theorem setAddFlags_pc (sz : Size) (a m : Word) (s : State) : (setAddFlags sz a m s).pc = s.pc := rfl
@[simp] theorem setAddFlags_acca (sz : Size) (a m : Word) (s : State) : (setAddFlags sz a m s).acca = s.acca := rfl
@[simp] theorem setAddFlags_accb (sz : Size) (a m : Word) (s : State) : (setAddFlags sz a m s).accb = s.accb := rfl
@[simp] theorem setAddFlags_corcon (sz : Size) (a m : Word) (s : State) : (setAddFlags sz a m s).corcon = s.corcon := rfl
@[simp] theorem setAddFlags_splim (sz : Size) (a m : Word) (s : State) : (setAddFlags sz a m s).splim = s.splim := rfl
@[simp] theorem setAddFlags_splimEn (sz : Size) (a m : Word) (s : State) : (setAddFlags sz a m s).splimEn = s.splimEn := rfl
@[simp] theorem setAddFlags_tblpag (sz : Size) (a m : Word) (s : State) : (setAddFlags sz a m s).tblpag = s.tblpag := rfl
@[simp] theorem setAddFlags_psvpag (sz : Size) (a m : Word) (s : State) : (setAddFlags sz a m s).psvpag = s.psvpag := rfl
@[simp] theorem setAddFlags_rcount (sz : Size) (a m : Word) (s : State) : (setAddFlags sz a m s).rcount = s.rcount := rfl
@[simp] theorem setAddFlags_loop (sz : Size) (a m : Word) (s : State) : (setAddFlags sz a m s).loop = s.loop := rfl
@[simp] theorem setAddFlags_modcon (sz : Size) (a m : Word) (s : State) : (setAddFlags sz a m s).modcon = s.modcon := rfl
@[simp] theorem setAddFlags_xmodsrt (sz : Size) (a m : Word) (s : State) : (setAddFlags sz a m s).xmodsrt = s.xmodsrt := rfl
@[simp] theorem setAddFlags_xmodend (sz : Size) (a m : Word) (s : State) : (setAddFlags sz a m s).xmodend = s.xmodend := rfl
@[simp] theorem setAddFlags_ymodsrt (sz : Size) (a m : Word) (s : State) : (setAddFlags sz a m s).ymodsrt = s.ymodsrt := rfl
@[simp] theorem setAddFlags_ymodend (sz : Size) (a m : Word) (s : State) : (setAddFlags sz a m s).ymodend = s.ymodend := rfl
@[simp] theorem setAddFlags_xbrev (sz : Size) (a m : Word) (s : State) : (setAddFlags sz a m s).xbrev = s.xbrev := rfl
@[simp] theorem setAddFlags_disicnt (sz : Size) (a m : Word) (s : State) : (setAddFlags sz a m s).disicnt = s.disicnt := rfl
@[simp] theorem setAddFlags_shadow (sz : Size) (a m : Word) (s : State) : (setAddFlags sz a m s).shadow = s.shadow := rfl
@[simp] theorem setAddFlags_loopShadow (sz : Size) (a m : Word) (s : State) : (setAddFlags sz a m s).loopShadow = s.loopShadow := rfl
@[simp] theorem setAddFlags_intcon (sz : Size) (a m : Word) (s : State) : (setAddFlags sz a m s).intcon = s.intcon := rfl
@[simp] theorem setAddFlags_edt (sz : Size) (a m : Word) (s : State) : (setAddFlags sz a m s).edt = s.edt := rfl
@[simp] theorem setAddFlags_rptFresh (sz : Size) (a m : Word) (s : State) : (setAddFlags sz a m s).rptFresh = s.rptFresh := rfl
@[simp] theorem setAddFlags_dv (sz : Size) (a m : Word) (s : State) : (setAddFlags sz a m s).dv = s.dv := rfl
@[simp] theorem setAddFlags_stackPending (sz : Size) (a m : Word) (s : State) : (setAddFlags sz a m s).stackPending = s.stackPending := rfl
@[simp] theorem setAddFlags_arithPending (sz : Size) (a m : Word) (s : State) : (setAddFlags sz a m s).arithPending = s.arithPending := rfl
@[simp] theorem setAddFlags_power (sz : Size) (a m : Word) (s : State) : (setAddFlags sz a m s).power = s.power := rfl
@[simp] theorem setAddFlags_ram (sz : Size) (a m : Word) (s : State) : (setAddFlags sz a m s).ram = s.ram := rfl
@[simp] theorem setAddFlags_prog (sz : Size) (a m : Word) (s : State) : (setAddFlags sz a m s).prog = s.prog := rfl
@[simp] theorem setAddFlags_dev (sz : Size) (a m : Word) (s : State) : (setAddFlags sz a m s).dev = s.dev := rfl
@[simp] theorem setAddFlags_inputs (sz : Size) (a m : Word) (s : State) : (setAddFlags sz a m s).inputs = s.inputs := rfl
@[simp] theorem setAddFlags_draws (sz : Size) (a m : Word) (s : State) : (setAddFlags sz a m s).draws = s.draws := rfl
@[simp] theorem setAddFlags_cur (sz : Size) (a m : Word) (s : State) : (setAddFlags sz a m s).cur = s.cur := rfl
@[simp] theorem setAddFlags_hist (sz : Size) (a m : Word) (s : State) : (setAddFlags sz a m s).hist = s.hist := rfl
@[simp] theorem setAddFlags_adjacent (sz : Size) (a m : Word) (s : State) : (setAddFlags sz a m s).adjacent = s.adjacent := rfl
@[simp] theorem setAddFlags_targets (sz : Size) (a m : Word) (s : State) : (setAddFlags sz a m s).targets = s.targets := rfl
@[simp] theorem setAddFlags_skipNops (sz : Size) (a m : Word) (s : State) : (setAddFlags sz a m s).skipNops = s.skipNops := rfl

/-! ### setShiftFlags -/

@[simp] theorem setShiftFlags_w (v : Word) (s : State) : (setShiftFlags v s).w = s.w := rfl
@[simp] theorem setShiftFlags_winit (v : Word) (s : State) : (setShiftFlags v s).winit = s.winit := rfl
@[simp] theorem setShiftFlags_pc (v : Word) (s : State) : (setShiftFlags v s).pc = s.pc := rfl
@[simp] theorem setShiftFlags_acca (v : Word) (s : State) : (setShiftFlags v s).acca = s.acca := rfl
@[simp] theorem setShiftFlags_accb (v : Word) (s : State) : (setShiftFlags v s).accb = s.accb := rfl
@[simp] theorem setShiftFlags_corcon (v : Word) (s : State) : (setShiftFlags v s).corcon = s.corcon := rfl
@[simp] theorem setShiftFlags_splim (v : Word) (s : State) : (setShiftFlags v s).splim = s.splim := rfl
@[simp] theorem setShiftFlags_splimEn (v : Word) (s : State) : (setShiftFlags v s).splimEn = s.splimEn := rfl
@[simp] theorem setShiftFlags_tblpag (v : Word) (s : State) : (setShiftFlags v s).tblpag = s.tblpag := rfl
@[simp] theorem setShiftFlags_psvpag (v : Word) (s : State) : (setShiftFlags v s).psvpag = s.psvpag := rfl
@[simp] theorem setShiftFlags_rcount (v : Word) (s : State) : (setShiftFlags v s).rcount = s.rcount := rfl
@[simp] theorem setShiftFlags_loop (v : Word) (s : State) : (setShiftFlags v s).loop = s.loop := rfl
@[simp] theorem setShiftFlags_modcon (v : Word) (s : State) : (setShiftFlags v s).modcon = s.modcon := rfl
@[simp] theorem setShiftFlags_xmodsrt (v : Word) (s : State) : (setShiftFlags v s).xmodsrt = s.xmodsrt := rfl
@[simp] theorem setShiftFlags_xmodend (v : Word) (s : State) : (setShiftFlags v s).xmodend = s.xmodend := rfl
@[simp] theorem setShiftFlags_ymodsrt (v : Word) (s : State) : (setShiftFlags v s).ymodsrt = s.ymodsrt := rfl
@[simp] theorem setShiftFlags_ymodend (v : Word) (s : State) : (setShiftFlags v s).ymodend = s.ymodend := rfl
@[simp] theorem setShiftFlags_xbrev (v : Word) (s : State) : (setShiftFlags v s).xbrev = s.xbrev := rfl
@[simp] theorem setShiftFlags_disicnt (v : Word) (s : State) : (setShiftFlags v s).disicnt = s.disicnt := rfl
@[simp] theorem setShiftFlags_shadow (v : Word) (s : State) : (setShiftFlags v s).shadow = s.shadow := rfl
@[simp] theorem setShiftFlags_loopShadow (v : Word) (s : State) : (setShiftFlags v s).loopShadow = s.loopShadow := rfl
@[simp] theorem setShiftFlags_intcon (v : Word) (s : State) : (setShiftFlags v s).intcon = s.intcon := rfl
@[simp] theorem setShiftFlags_edt (v : Word) (s : State) : (setShiftFlags v s).edt = s.edt := rfl
@[simp] theorem setShiftFlags_rptFresh (v : Word) (s : State) : (setShiftFlags v s).rptFresh = s.rptFresh := rfl
@[simp] theorem setShiftFlags_dv (v : Word) (s : State) : (setShiftFlags v s).dv = s.dv := rfl
@[simp] theorem setShiftFlags_stackPending (v : Word) (s : State) : (setShiftFlags v s).stackPending = s.stackPending := rfl
@[simp] theorem setShiftFlags_arithPending (v : Word) (s : State) : (setShiftFlags v s).arithPending = s.arithPending := rfl
@[simp] theorem setShiftFlags_power (v : Word) (s : State) : (setShiftFlags v s).power = s.power := rfl
@[simp] theorem setShiftFlags_ram (v : Word) (s : State) : (setShiftFlags v s).ram = s.ram := rfl
@[simp] theorem setShiftFlags_prog (v : Word) (s : State) : (setShiftFlags v s).prog = s.prog := rfl
@[simp] theorem setShiftFlags_dev (v : Word) (s : State) : (setShiftFlags v s).dev = s.dev := rfl
@[simp] theorem setShiftFlags_inputs (v : Word) (s : State) : (setShiftFlags v s).inputs = s.inputs := rfl
@[simp] theorem setShiftFlags_draws (v : Word) (s : State) : (setShiftFlags v s).draws = s.draws := rfl
@[simp] theorem setShiftFlags_cur (v : Word) (s : State) : (setShiftFlags v s).cur = s.cur := rfl
@[simp] theorem setShiftFlags_hist (v : Word) (s : State) : (setShiftFlags v s).hist = s.hist := rfl
@[simp] theorem setShiftFlags_adjacent (v : Word) (s : State) : (setShiftFlags v s).adjacent = s.adjacent := rfl
@[simp] theorem setShiftFlags_targets (v : Word) (s : State) : (setShiftFlags v s).targets = s.targets := rfl
@[simp] theorem setShiftFlags_skipNops (v : Word) (s : State) : (setShiftFlags v s).skipNops = s.skipNops := rfl

/-! ### raiseStack -/

@[simp] theorem raiseStack_w (s : State) : (raiseStack s).w = s.w := rfl
@[simp] theorem raiseStack_winit (s : State) : (raiseStack s).winit = s.winit := rfl
@[simp] theorem raiseStack_pc (s : State) : (raiseStack s).pc = s.pc := rfl
@[simp] theorem raiseStack_acca (s : State) : (raiseStack s).acca = s.acca := rfl
@[simp] theorem raiseStack_accb (s : State) : (raiseStack s).accb = s.accb := rfl
@[simp] theorem raiseStack_sr (s : State) : (raiseStack s).sr = s.sr := rfl
@[simp] theorem raiseStack_corcon (s : State) : (raiseStack s).corcon = s.corcon := rfl
@[simp] theorem raiseStack_splim (s : State) : (raiseStack s).splim = s.splim := rfl
@[simp] theorem raiseStack_splimEn (s : State) : (raiseStack s).splimEn = s.splimEn := rfl
@[simp] theorem raiseStack_tblpag (s : State) : (raiseStack s).tblpag = s.tblpag := rfl
@[simp] theorem raiseStack_psvpag (s : State) : (raiseStack s).psvpag = s.psvpag := rfl
@[simp] theorem raiseStack_rcount (s : State) : (raiseStack s).rcount = s.rcount := rfl
@[simp] theorem raiseStack_loop (s : State) : (raiseStack s).loop = s.loop := rfl
@[simp] theorem raiseStack_modcon (s : State) : (raiseStack s).modcon = s.modcon := rfl
@[simp] theorem raiseStack_xmodsrt (s : State) : (raiseStack s).xmodsrt = s.xmodsrt := rfl
@[simp] theorem raiseStack_xmodend (s : State) : (raiseStack s).xmodend = s.xmodend := rfl
@[simp] theorem raiseStack_ymodsrt (s : State) : (raiseStack s).ymodsrt = s.ymodsrt := rfl
@[simp] theorem raiseStack_ymodend (s : State) : (raiseStack s).ymodend = s.ymodend := rfl
@[simp] theorem raiseStack_xbrev (s : State) : (raiseStack s).xbrev = s.xbrev := rfl
@[simp] theorem raiseStack_disicnt (s : State) : (raiseStack s).disicnt = s.disicnt := rfl
@[simp] theorem raiseStack_shadow (s : State) : (raiseStack s).shadow = s.shadow := rfl
@[simp] theorem raiseStack_loopShadow (s : State) : (raiseStack s).loopShadow = s.loopShadow := rfl
@[simp] theorem raiseStack_intcon (s : State) : (raiseStack s).intcon = s.intcon := rfl
@[simp] theorem raiseStack_edt (s : State) : (raiseStack s).edt = s.edt := rfl
@[simp] theorem raiseStack_rptFresh (s : State) : (raiseStack s).rptFresh = s.rptFresh := rfl
@[simp] theorem raiseStack_dv (s : State) : (raiseStack s).dv = s.dv := rfl
@[simp] theorem raiseStack_stackPending (s : State) : (raiseStack s).stackPending = true := rfl
@[simp] theorem raiseStack_arithPending (s : State) : (raiseStack s).arithPending = s.arithPending := rfl
@[simp] theorem raiseStack_power (s : State) : (raiseStack s).power = s.power := rfl
@[simp] theorem raiseStack_ram (s : State) : (raiseStack s).ram = s.ram := rfl
@[simp] theorem raiseStack_prog (s : State) : (raiseStack s).prog = s.prog := rfl
@[simp] theorem raiseStack_dev (s : State) : (raiseStack s).dev = s.dev := rfl
@[simp] theorem raiseStack_inputs (s : State) : (raiseStack s).inputs = s.inputs := rfl
@[simp] theorem raiseStack_draws (s : State) : (raiseStack s).draws = s.draws := rfl
@[simp] theorem raiseStack_cur (s : State) : (raiseStack s).cur = s.cur := rfl
@[simp] theorem raiseStack_hist (s : State) : (raiseStack s).hist = s.hist := rfl
@[simp] theorem raiseStack_adjacent (s : State) : (raiseStack s).adjacent = s.adjacent := rfl
@[simp] theorem raiseStack_targets (s : State) : (raiseStack s).targets = s.targets := rfl
@[simp] theorem raiseStack_skipNops (s : State) : (raiseStack s).skipNops = s.skipNops := rfl

/-! ### raiseArith -/

@[simp] theorem raiseArith_w (s : State) : (raiseArith s).w = s.w := rfl
@[simp] theorem raiseArith_winit (s : State) : (raiseArith s).winit = s.winit := rfl
@[simp] theorem raiseArith_pc (s : State) : (raiseArith s).pc = s.pc := rfl
@[simp] theorem raiseArith_acca (s : State) : (raiseArith s).acca = s.acca := rfl
@[simp] theorem raiseArith_accb (s : State) : (raiseArith s).accb = s.accb := rfl
@[simp] theorem raiseArith_sr (s : State) : (raiseArith s).sr = s.sr := rfl
@[simp] theorem raiseArith_corcon (s : State) : (raiseArith s).corcon = s.corcon := rfl
@[simp] theorem raiseArith_splim (s : State) : (raiseArith s).splim = s.splim := rfl
@[simp] theorem raiseArith_splimEn (s : State) : (raiseArith s).splimEn = s.splimEn := rfl
@[simp] theorem raiseArith_tblpag (s : State) : (raiseArith s).tblpag = s.tblpag := rfl
@[simp] theorem raiseArith_psvpag (s : State) : (raiseArith s).psvpag = s.psvpag := rfl
@[simp] theorem raiseArith_rcount (s : State) : (raiseArith s).rcount = s.rcount := rfl
@[simp] theorem raiseArith_loop (s : State) : (raiseArith s).loop = s.loop := rfl
@[simp] theorem raiseArith_modcon (s : State) : (raiseArith s).modcon = s.modcon := rfl
@[simp] theorem raiseArith_xmodsrt (s : State) : (raiseArith s).xmodsrt = s.xmodsrt := rfl
@[simp] theorem raiseArith_xmodend (s : State) : (raiseArith s).xmodend = s.xmodend := rfl
@[simp] theorem raiseArith_ymodsrt (s : State) : (raiseArith s).ymodsrt = s.ymodsrt := rfl
@[simp] theorem raiseArith_ymodend (s : State) : (raiseArith s).ymodend = s.ymodend := rfl
@[simp] theorem raiseArith_xbrev (s : State) : (raiseArith s).xbrev = s.xbrev := rfl
@[simp] theorem raiseArith_disicnt (s : State) : (raiseArith s).disicnt = s.disicnt := rfl
@[simp] theorem raiseArith_shadow (s : State) : (raiseArith s).shadow = s.shadow := rfl
@[simp] theorem raiseArith_loopShadow (s : State) : (raiseArith s).loopShadow = s.loopShadow := rfl
@[simp] theorem raiseArith_intcon (s : State) : (raiseArith s).intcon = s.intcon := rfl
@[simp] theorem raiseArith_edt (s : State) : (raiseArith s).edt = s.edt := rfl
@[simp] theorem raiseArith_rptFresh (s : State) : (raiseArith s).rptFresh = s.rptFresh := rfl
@[simp] theorem raiseArith_dv (s : State) : (raiseArith s).dv = s.dv := rfl
@[simp] theorem raiseArith_stackPending (s : State) : (raiseArith s).stackPending = s.stackPending := rfl
@[simp] theorem raiseArith_arithPending (s : State) : (raiseArith s).arithPending = true := rfl
@[simp] theorem raiseArith_power (s : State) : (raiseArith s).power = s.power := rfl
@[simp] theorem raiseArith_ram (s : State) : (raiseArith s).ram = s.ram := rfl
@[simp] theorem raiseArith_prog (s : State) : (raiseArith s).prog = s.prog := rfl
@[simp] theorem raiseArith_dev (s : State) : (raiseArith s).dev = s.dev := rfl
@[simp] theorem raiseArith_inputs (s : State) : (raiseArith s).inputs = s.inputs := rfl
@[simp] theorem raiseArith_draws (s : State) : (raiseArith s).draws = s.draws := rfl
@[simp] theorem raiseArith_cur (s : State) : (raiseArith s).cur = s.cur := rfl
@[simp] theorem raiseArith_hist (s : State) : (raiseArith s).hist = s.hist := rfl
@[simp] theorem raiseArith_adjacent (s : State) : (raiseArith s).adjacent = s.adjacent := rfl
@[simp] theorem raiseArith_targets (s : State) : (raiseArith s).targets = s.targets := rfl
@[simp] theorem raiseArith_skipNops (s : State) : (raiseArith s).skipNops = s.skipNops := rfl

/-! ### setRa -/

@[simp] theorem setRa_w (b : Bool) (s : State) : (setRa b s).w = s.w := rfl
@[simp] theorem setRa_winit (b : Bool) (s : State) : (setRa b s).winit = s.winit := rfl
@[simp] theorem setRa_pc (b : Bool) (s : State) : (setRa b s).pc = s.pc := rfl
@[simp] theorem setRa_acca (b : Bool) (s : State) : (setRa b s).acca = s.acca := rfl
@[simp] theorem setRa_accb (b : Bool) (s : State) : (setRa b s).accb = s.accb := rfl
@[simp] theorem setRa_sr (b : Bool) (s : State) : (setRa b s).sr = { s.sr with ra := b } := rfl
@[simp] theorem setRa_corcon (b : Bool) (s : State) : (setRa b s).corcon = s.corcon := rfl
@[simp] theorem setRa_splim (b : Bool) (s : State) : (setRa b s).splim = s.splim := rfl
@[simp] theorem setRa_splimEn (b : Bool) (s : State) : (setRa b s).splimEn = s.splimEn := rfl
@[simp] theorem setRa_tblpag (b : Bool) (s : State) : (setRa b s).tblpag = s.tblpag := rfl
@[simp] theorem setRa_psvpag (b : Bool) (s : State) : (setRa b s).psvpag = s.psvpag := rfl
@[simp] theorem setRa_rcount (b : Bool) (s : State) : (setRa b s).rcount = s.rcount := rfl
@[simp] theorem setRa_loop (b : Bool) (s : State) : (setRa b s).loop = s.loop := rfl
@[simp] theorem setRa_modcon (b : Bool) (s : State) : (setRa b s).modcon = s.modcon := rfl
@[simp] theorem setRa_xmodsrt (b : Bool) (s : State) : (setRa b s).xmodsrt = s.xmodsrt := rfl
@[simp] theorem setRa_xmodend (b : Bool) (s : State) : (setRa b s).xmodend = s.xmodend := rfl
@[simp] theorem setRa_ymodsrt (b : Bool) (s : State) : (setRa b s).ymodsrt = s.ymodsrt := rfl
@[simp] theorem setRa_ymodend (b : Bool) (s : State) : (setRa b s).ymodend = s.ymodend := rfl
@[simp] theorem setRa_xbrev (b : Bool) (s : State) : (setRa b s).xbrev = s.xbrev := rfl
@[simp] theorem setRa_disicnt (b : Bool) (s : State) : (setRa b s).disicnt = s.disicnt := rfl
@[simp] theorem setRa_shadow (b : Bool) (s : State) : (setRa b s).shadow = s.shadow := rfl
@[simp] theorem setRa_loopShadow (b : Bool) (s : State) : (setRa b s).loopShadow = s.loopShadow := rfl
@[simp] theorem setRa_intcon (b : Bool) (s : State) : (setRa b s).intcon = s.intcon := rfl
@[simp] theorem setRa_edt (b : Bool) (s : State) : (setRa b s).edt = s.edt := rfl
@[simp] theorem setRa_rptFresh (b : Bool) (s : State) : (setRa b s).rptFresh = s.rptFresh := rfl
@[simp] theorem setRa_dv (b : Bool) (s : State) : (setRa b s).dv = s.dv := rfl
@[simp] theorem setRa_stackPending (b : Bool) (s : State) : (setRa b s).stackPending = s.stackPending := rfl
@[simp] theorem setRa_arithPending (b : Bool) (s : State) : (setRa b s).arithPending = s.arithPending := rfl
@[simp] theorem setRa_power (b : Bool) (s : State) : (setRa b s).power = s.power := rfl
@[simp] theorem setRa_ram (b : Bool) (s : State) : (setRa b s).ram = s.ram := rfl
@[simp] theorem setRa_prog (b : Bool) (s : State) : (setRa b s).prog = s.prog := rfl
@[simp] theorem setRa_dev (b : Bool) (s : State) : (setRa b s).dev = s.dev := rfl
@[simp] theorem setRa_inputs (b : Bool) (s : State) : (setRa b s).inputs = s.inputs := rfl
@[simp] theorem setRa_draws (b : Bool) (s : State) : (setRa b s).draws = s.draws := rfl
@[simp] theorem setRa_cur (b : Bool) (s : State) : (setRa b s).cur = s.cur := rfl
@[simp] theorem setRa_hist (b : Bool) (s : State) : (setRa b s).hist = s.hist := rfl
@[simp] theorem setRa_adjacent (b : Bool) (s : State) : (setRa b s).adjacent = s.adjacent := rfl
@[simp] theorem setRa_targets (b : Bool) (s : State) : (setRa b s).targets = s.targets := rfl
@[simp] theorem setRa_skipNops (b : Bool) (s : State) : (setRa b s).skipNops = s.skipNops := rfl

/-! ### resumeTarget -/

@[simp] theorem resumeTarget_w (s : State) : (resumeTarget s).w = s.w := rfl
@[simp] theorem resumeTarget_winit (s : State) : (resumeTarget s).winit = s.winit := rfl
@[simp] theorem resumeTarget_pc (s : State) : (resumeTarget s).pc = s.pc := rfl
@[simp] theorem resumeTarget_acca (s : State) : (resumeTarget s).acca = s.acca := rfl
@[simp] theorem resumeTarget_accb (s : State) : (resumeTarget s).accb = s.accb := rfl
@[simp] theorem resumeTarget_sr (s : State) : (resumeTarget s).sr = s.sr := rfl
@[simp] theorem resumeTarget_corcon (s : State) : (resumeTarget s).corcon = s.corcon := rfl
@[simp] theorem resumeTarget_splim (s : State) : (resumeTarget s).splim = s.splim := rfl
@[simp] theorem resumeTarget_splimEn (s : State) : (resumeTarget s).splimEn = s.splimEn := rfl
@[simp] theorem resumeTarget_tblpag (s : State) : (resumeTarget s).tblpag = s.tblpag := rfl
@[simp] theorem resumeTarget_psvpag (s : State) : (resumeTarget s).psvpag = s.psvpag := rfl
@[simp] theorem resumeTarget_rcount (s : State) : (resumeTarget s).rcount = s.rcount := rfl
@[simp] theorem resumeTarget_loop (s : State) : (resumeTarget s).loop = s.loop := rfl
@[simp] theorem resumeTarget_modcon (s : State) : (resumeTarget s).modcon = s.modcon := rfl
@[simp] theorem resumeTarget_xmodsrt (s : State) : (resumeTarget s).xmodsrt = s.xmodsrt := rfl
@[simp] theorem resumeTarget_xmodend (s : State) : (resumeTarget s).xmodend = s.xmodend := rfl
@[simp] theorem resumeTarget_ymodsrt (s : State) : (resumeTarget s).ymodsrt = s.ymodsrt := rfl
@[simp] theorem resumeTarget_ymodend (s : State) : (resumeTarget s).ymodend = s.ymodend := rfl
@[simp] theorem resumeTarget_xbrev (s : State) : (resumeTarget s).xbrev = s.xbrev := rfl
@[simp] theorem resumeTarget_disicnt (s : State) : (resumeTarget s).disicnt = s.disicnt := rfl
@[simp] theorem resumeTarget_shadow (s : State) : (resumeTarget s).shadow = s.shadow := rfl
@[simp] theorem resumeTarget_loopShadow (s : State) : (resumeTarget s).loopShadow = s.loopShadow := rfl
@[simp] theorem resumeTarget_intcon (s : State) : (resumeTarget s).intcon = s.intcon := rfl
@[simp] theorem resumeTarget_edt (s : State) : (resumeTarget s).edt = s.edt := rfl
@[simp] theorem resumeTarget_rptFresh (s : State) : (resumeTarget s).rptFresh = (s.rptFresh || s.targets.contains (s.pc, getW 15#4 s)) := rfl
@[simp] theorem resumeTarget_dv (s : State) : (resumeTarget s).dv = s.dv := rfl
@[simp] theorem resumeTarget_stackPending (s : State) : (resumeTarget s).stackPending = s.stackPending := rfl
@[simp] theorem resumeTarget_arithPending (s : State) : (resumeTarget s).arithPending = s.arithPending := rfl
@[simp] theorem resumeTarget_power (s : State) : (resumeTarget s).power = s.power := rfl
@[simp] theorem resumeTarget_ram (s : State) : (resumeTarget s).ram = s.ram := rfl
@[simp] theorem resumeTarget_prog (s : State) : (resumeTarget s).prog = s.prog := rfl
@[simp] theorem resumeTarget_dev (s : State) : (resumeTarget s).dev = s.dev := rfl
@[simp] theorem resumeTarget_inputs (s : State) : (resumeTarget s).inputs = s.inputs := rfl
@[simp] theorem resumeTarget_draws (s : State) : (resumeTarget s).draws = s.draws := rfl
@[simp] theorem resumeTarget_cur (s : State) : (resumeTarget s).cur = s.cur := rfl
@[simp] theorem resumeTarget_hist (s : State) : (resumeTarget s).hist = s.hist := rfl
@[simp] theorem resumeTarget_adjacent (s : State) : (resumeTarget s).adjacent = s.adjacent := rfl
@[simp] theorem resumeTarget_targets (s : State) : (resumeTarget s).targets = s.targets := rfl
@[simp] theorem resumeTarget_skipNops (s : State) : (resumeTarget s).skipNops = s.skipNops := rfl

/-! ### openBoundary -/

@[simp] theorem openBoundary_w (s : State) : (openBoundary s).w = s.w := rfl
@[simp] theorem openBoundary_winit (s : State) : (openBoundary s).winit = s.winit := rfl
@[simp] theorem openBoundary_pc (s : State) : (openBoundary s).pc = s.pc := rfl
@[simp] theorem openBoundary_acca (s : State) : (openBoundary s).acca = s.acca := rfl
@[simp] theorem openBoundary_accb (s : State) : (openBoundary s).accb = s.accb := rfl
@[simp] theorem openBoundary_sr (s : State) : (openBoundary s).sr = s.sr := rfl
@[simp] theorem openBoundary_corcon (s : State) : (openBoundary s).corcon = s.corcon := rfl
@[simp] theorem openBoundary_splim (s : State) : (openBoundary s).splim = s.splim := rfl
@[simp] theorem openBoundary_splimEn (s : State) : (openBoundary s).splimEn = s.splimEn := rfl
@[simp] theorem openBoundary_tblpag (s : State) : (openBoundary s).tblpag = s.tblpag := rfl
@[simp] theorem openBoundary_psvpag (s : State) : (openBoundary s).psvpag = s.psvpag := rfl
@[simp] theorem openBoundary_rcount (s : State) : (openBoundary s).rcount = s.rcount := rfl
@[simp] theorem openBoundary_loop (s : State) : (openBoundary s).loop = s.loop := rfl
@[simp] theorem openBoundary_modcon (s : State) : (openBoundary s).modcon = s.modcon := rfl
@[simp] theorem openBoundary_xmodsrt (s : State) : (openBoundary s).xmodsrt = s.xmodsrt := rfl
@[simp] theorem openBoundary_xmodend (s : State) : (openBoundary s).xmodend = s.xmodend := rfl
@[simp] theorem openBoundary_ymodsrt (s : State) : (openBoundary s).ymodsrt = s.ymodsrt := rfl
@[simp] theorem openBoundary_ymodend (s : State) : (openBoundary s).ymodend = s.ymodend := rfl
@[simp] theorem openBoundary_xbrev (s : State) : (openBoundary s).xbrev = s.xbrev := rfl
@[simp] theorem openBoundary_disicnt (s : State) : (openBoundary s).disicnt = s.disicnt := rfl
@[simp] theorem openBoundary_shadow (s : State) : (openBoundary s).shadow = s.shadow := rfl
@[simp] theorem openBoundary_loopShadow (s : State) : (openBoundary s).loopShadow = s.loopShadow := rfl
@[simp] theorem openBoundary_intcon (s : State) : (openBoundary s).intcon = s.intcon := rfl
@[simp] theorem openBoundary_edt (s : State) : (openBoundary s).edt = s.edt := rfl
@[simp] theorem openBoundary_rptFresh (s : State) : (openBoundary s).rptFresh = s.rptFresh := rfl
@[simp] theorem openBoundary_dv (s : State) : (openBoundary s).dv = s.dv := rfl
@[simp] theorem openBoundary_stackPending (s : State) : (openBoundary s).stackPending = s.stackPending := rfl
@[simp] theorem openBoundary_arithPending (s : State) : (openBoundary s).arithPending = s.arithPending := rfl
@[simp] theorem openBoundary_power (s : State) : (openBoundary s).power = s.power := rfl
@[simp] theorem openBoundary_ram (s : State) : (openBoundary s).ram = s.ram := rfl
@[simp] theorem openBoundary_prog (s : State) : (openBoundary s).prog = s.prog := rfl
@[simp] theorem openBoundary_dev (s : State) : (openBoundary s).dev = s.dev := rfl
@[simp] theorem openBoundary_inputs (s : State) : (openBoundary s).inputs = s.inputs.tail := rfl
@[simp] theorem openBoundary_draws (s : State) : (openBoundary s).draws = s.draws := rfl
@[simp] theorem openBoundary_cur (s : State) : (openBoundary s).cur = Access.quiet := rfl
@[simp] theorem openBoundary_hist (s : State) : (openBoundary s).hist = s.hist := rfl
@[simp] theorem openBoundary_adjacent (s : State) : (openBoundary s).adjacent = s.adjacent := rfl
@[simp] theorem openBoundary_targets (s : State) : (openBoundary s).targets = s.targets := rfl
@[simp] theorem openBoundary_skipNops (s : State) : (openBoundary s).skipNops = s.skipNops := rfl

end Sys2Proof.Machine
end

