-- ==== Sys2Proof/Laws/Memory.lean ====
section
/-! SUPPORT. The laws of the cell lists: a read after a write, and that every memory operation keeps
the canonical form. -/

namespace Sys2Proof.Machine

variable {α : Type}

theorem findCell_put_same (m : List (Nat × α)) (a : Nat) (x : α) :
    findCell (putCell m a x) a = some x := by
  induction m with
  | nil => simp [putCell, findCell]
  | cons c m ih =>
    simp only [putCell]
    split
    · simp [findCell]
    · split
      · simp [findCell]
      · simp [findCell, *]

theorem findCell_put_other (m : List (Nat × α)) (a b : Nat) (x : α) (h : b ≠ a) :
    findCell (putCell m a x) b = findCell m b := by
  induction m with
  | nil => simp [putCell, findCell, Ne.symm h]
  | cons c m ih =>
    simp only [putCell]
    split
    · simp [findCell, Ne.symm h]
    · split
      · rename_i h2; simp [findCell, h2, Ne.symm h]
      · simp [findCell, ih]

theorem risingFrom_weaken {m : List (Nat × α)} {lo lo' : Nat} (h : risingFrom lo m = true)
    (hl : lo' ≤ lo) : risingFrom lo' m = true := by
  cases m with
  | nil => rfl
  | cons c m =>
    simp only [risingFrom, Bool.and_eq_true, decide_eq_true_eq] at h ⊢
    exact ⟨by omega, h.2⟩

theorem findCell_below {m : List (Nat × α)} {lo a : Nat} (h : risingFrom lo m = true)
    (ha : a < lo) : findCell m a = none := by
  induction m generalizing lo with
  | nil => rfl
  | cons c m ih =>
    simp [risingFrom] at h
    simp [findCell, show c.1 ≠ a by omega, ih h.2 (by omega)]

theorem findCell_drop_same {m : List (Nat × α)} {lo : Nat} (h : risingFrom lo m = true) (a : Nat) :
    findCell (dropCell m a) a = none := by
  induction m generalizing lo with
  | nil => rfl
  | cons c m ih =>
    simp [risingFrom] at h
    by_cases hc : c.1 = a
    · simp [dropCell, hc]; exact findCell_below h.2 (by omega)
    · simp [dropCell, hc, findCell, ih h.2]

theorem findCell_drop_other (m : List (Nat × α)) (a b : Nat) (h : b ≠ a) :
    findCell (dropCell m a) b = findCell m b := by
  induction m with
  | nil => rfl
  | cons c m ih =>
    by_cases hc : c.1 = a
    · simp [dropCell, hc, findCell, Ne.symm h]
    · simp [dropCell, hc, findCell, ih]

theorem risingFrom_put {m : List (Nat × α)} {lo a : Nat} (h : risingFrom lo m = true)
    (ha : lo ≤ a) (x : α) : risingFrom lo (putCell m a x) = true := by
  induction m generalizing lo with
  | nil => simp [putCell, risingFrom, ha]
  | cons c m ih =>
    simp [risingFrom] at h
    simp only [putCell]
    split
    · rename_i h1; simp [risingFrom, ha, h.2]; omega
    · split
      · rename_i h1 h2; simp [risingFrom, ← h2, h.2]
        omega
      · rename_i h1 h2; simp [risingFrom, h.1, ih h.2 (by omega)]

theorem risingFrom_drop {m : List (Nat × α)} {lo : Nat} (h : risingFrom lo m = true) (a : Nat) :
    risingFrom lo (dropCell m a) = true := by
  induction m generalizing lo with
  | nil => rfl
  | cons c m ih =>
    simp [risingFrom] at h
    by_cases hc : c.1 = a
    · simp [dropCell, hc]; exact risingFrom_weaken h.2 (by omega)
    · simp [dropCell, hc, risingFrom, h.1, ih h.2]

theorem mem_putCell {m : List (Nat × α)} {a : Nat} {x : α} {c : Nat × α}
    (h : c ∈ putCell m a x) : c = (a, x) ∨ c ∈ m := by
  induction m with
  | nil => simp [putCell] at h; exact .inl h
  | cons d m ih =>
    simp only [putCell] at h
    split at h
    · simpa using h
    · split at h
      · simp at h ⊢; tauto
      · simp at h ⊢; rcases h with h | h
        · tauto
        · rcases ih h with h | h <;> tauto

theorem mem_dropCell {m : List (Nat × α)} {a : Nat} {c : Nat × α} (h : c ∈ dropCell m a) :
    c ∈ m := by
  induction m with
  | nil => exact h
  | cons d m ih =>
    by_cases hd : d.1 = a
    · simp [dropCell, hd] at h; simp [h]
    · simp [dropCell, hd] at h ⊢; tauto

/-- A read of the byte that was written gives it. -/
theorem Memory.read_write_same {m : Memory} (h : Memory.wf m = true) (a : Nat) (b : Byte) :
    Memory.read (Memory.write m a b) a = b := by
  simp only [Memory.wf, Bool.and_eq_true] at h
  unfold Memory.read Memory.write
  split
  · rw [findCell_drop_same h.1]; simp [*]
  · simp [findCell_put_same]

/-- A write leaves every other byte alone. -/
theorem Memory.read_write_other (m : Memory) {a b : Nat} (v : Byte) (h : b ≠ a) :
    Memory.read (Memory.write m a v) b = Memory.read m b := by
  unfold Memory.read Memory.write
  split
  · rw [findCell_drop_other _ _ _ h]
  · rw [findCell_put_other _ _ _ _ h]

/-- A write keeps the canonical form. -/
theorem Memory.wf_write {m : Memory} (h : Memory.wf m = true) (a : Nat) (b : Byte) :
    Memory.wf (Memory.write m a b) = true := by
  simp only [Memory.wf, Bool.and_eq_true, List.all_eq_true, bne_iff_ne, ne_eq] at h ⊢
  unfold Memory.write
  split
  · exact ⟨risingFrom_drop h.1 a, fun c hc => h.2 c (mem_dropCell hc)⟩
  · rename_i hb
    refine ⟨risingFrom_put h.1 (Nat.zero_le a) b, fun c hc => ?_⟩
    rcases mem_putCell hc with hc | hc
    · simpa [hc] using hb
    · exact h.2 c hc

/-- The reset memory has the canonical form. -/
theorem Memory.wf_reset : Memory.wf State.reset.ram = true := rfl

end Sys2Proof.Machine
end

