-- ==== Sys2Proof/Laws/Ops.lean ====
section
/-! SUPPORT. What each shared operation can do, said once: a read or a write that is made, an
address that is formed, an operand, a push, a pop. Each is stated with the terms of `Safety.lean`. -/

namespace Sys2Proof.Machine

/-! ## Results -/

@[simp] theorem ok_bind {ε α β : Type} (a : α) (f : α → Except ε β) :
    (Except.ok a >>= f) = f a := rfl

@[simp] theorem error_bind {ε α β : Type} (e : ε) (f : α → Except ε β) :
    (Except.error e >>= f) = Except.error e := rfl

@[simp] theorem pure_ok {ε α : Type} (a : α) : (pure a : Except ε α) = Except.ok a := rfl

/-- An instruction that raises no trap R457 refuses ends in the state it left. -/
theorem finish_ok {s t : State} (h : trapNested s t = false) : finish s (.ok t) = .next t := by
  simp [finish, h]

@[simp] theorem finish_refused (s : State) (r : Refusal) :
    finish s (.error (.refused r)) = .refused r := rfl

@[simp] theorem finish_fault (s : State) (f : Fault) :
    finish s (.error (.fault f)) = .fault f := rfl

@[simp] theorem finish_uninit (s : State) (n : WReg) :
    finish s (.error (.uninitReset n)) = .next (deviceReset s) := rfl

/-- How an instruction comes to a next state: its own, with no trap that R457 refuses, or the reset. -/
theorem finish_next {s t : State} {r : Except Stop State} (h : finish s r = .next t) :
    (r = .ok t ∧ trapNested s t = false) ∨ ((∃ n, r = .error (.uninitReset n)) ∧ t = deviceReset s) := by
  match r with
  | .ok u =>
    simp only [finish] at h
    split at h
    · cases h
    · cases h; exact .inl ⟨rfl, by simp_all⟩
  | .error (.uninitReset n) => cases h; exact .inr ⟨⟨n, rfl⟩, rfl⟩
  | .error (.fault f) => cases h
  | .error (.refused r) => cases h

/-- An instruction that makes no trap pending is refused none (R457). -/
theorem trapNested_same {s t : State} (hs : t.stackPending = s.stackPending)
    (ha : t.arithPending = s.arithPending) : trapNested s t = false := by
  simp [trapNested, hs, ha]

/-- Below the level of each trap that it makes pending, an instruction is refused none (R457). -/
theorem trapNested_below {s t : State}
    (hs : t.stackPending = s.stackPending ∨ cpuLevel s < stackLevel s)
    (ha : t.arithPending = s.arithPending ∨ cpuLevel s < arithLevel s) :
    trapNested s t = false := by
  unfold trapNested
  rcases hs with hs | hs <;> rcases ha with ha | ha <;> simp [hs, ha]

/-- An operation that goes on and then ends did each in turn. -/
theorem bind_ok {ε α β : Type} {x : Except ε α} {f : α → Except ε β} {b : β}
    (h : x >>= f = .ok b) : ∃ a, x = .ok a ∧ f a = .ok b := by
  cases x with
  | error e => simp at h
  | ok a => exact ⟨a, rfl, h⟩

/-! ## Working registers -/

theorem getW_putW_same (n : WReg) (v : Word) (s : State) :
    getW n (putW n v s) = fixedW n v := by
  simp [getW, putW, Vector.get_eq_getElem]

theorem getW_putW_other {n m : WReg} (v : Word) (s : State) (h : m ≠ n) :
    getW m (putW n v s) = getW m s := by
  have : n.toNat ≠ m.toNat := fun e => h (BitVec.eq_of_toNat_eq e.symm)
  simp [getW, putW, Vector.get_eq_getElem, this]

theorem getW_putW (m n : WReg) (v : Word) (s : State) :
    getW m (putW n v s) = if m = n then fixedW n v else getW m s := by
  split
  · subst m; exact getW_putW_same n v s
  · exact getW_putW_other v s ‹_›

@[simp] theorem getW_note (n : WReg) (f : Access → Access) (s : State) :
    getW n (note f s) = getW n s := rfl

@[simp] theorem getW_noteModified (n m : WReg) (s : State) :
    getW n (noteModified m s) = getW n s := rfl

@[simp] theorem getW_markInit (n m : WReg) (s : State) :
    getW n (markInit m s) = getW n s := rfl

theorem getW_setW (m n : WReg) (v : Word) (s : State) :
    getW m (setW n v s) = if m = n then fixedW n v else getW m s := getW_putW m n v s

@[simp] theorem isInit_putW (m n : WReg) (v : Word) (s : State) :
    isInit m (putW n v s) = isInit m s := rfl

/-- A word write initialises its register. -/
theorem isInit_setW_same (n : WReg) (v : Word) (s : State) : isInit n (setW n v s) = true := by
  by_cases h : n = 15#4
  · simp [isInit, h]
  · have hn : n.toNat < 15 := by
      have h1 := n.isLt
      have h2 : n.toNat ≠ 15 := fun e => h (BitVec.eq_of_toNat_eq (by simpa using e))
      omega
    simp [isInit, setW, noteModified, note, markInit, putW, hn]

/-! ## The record and the draws

No rule but the value of a free read (INTCON1's unnamed bits, a special function register of the kind
`free`) reads the draws, and none of the operations below reads the record. `s.at' c k` is `s` with another record and another count. -/

/-- `s` with the record `c` and `k` draws. -/
def State.at' (s : State) (c : Access) (k : Nat) : State := { s with cur := c, draws := k }

theorem like_at (u : State) (c : Access) (k : Nat) : Like u (u.at' c k) := rfl

theorem like_iff {u t : State} : Like u t ↔ ∃ c k, t = u.at' c k :=
  ⟨fun h => ⟨t.cur, t.draws, h⟩, fun ⟨_, _, h⟩ => by subst h; rfl⟩

@[simp] theorem at_at (s : State) (c c' : Access) (k k' : Nat) :
    (s.at' c k).at' c' k' = s.at' c' k' := rfl

@[simp] theorem at_draws (s : State) (c : Access) (k : Nat) : (s.at' c k).draws = k := rfl

@[simp] theorem at_cur (s : State) (c : Access) (k : Nat) : (s.at' c k).cur = c := rfl

@[simp] theorem at_ram (s : State) (c : Access) (k : Nat) : (s.at' c k).ram = s.ram := rfl

@[simp] theorem getW_at (n : WReg) (s : State) (c : Access) (k : Nat) :
    getW n (s.at' c k) = getW n s := rfl

theorem moved_at (n : WReg) (d : Int) (s : State) (c : Access) (k : Nat) :
    moved n d (s.at' c k) = (moved n d s).at' c k := by
  unfold moved; split <;> rfl

theorem moved_draws (n : WReg) (d : Int) (s : State) : (moved n d s).draws = s.draws := by
  unfold moved; split <;> rfl

theorem noteEA_at (role : Role) (n : WReg) (s : State) (c : Access) (k : Nat) :
    ∃ c', noteEA role n (s.at' c k) = s.at' c' k := ⟨_, rfl⟩

theorem readable_at (sz : Size) (a : Word) (s : State) (c : Access) (k : Nat) :
    readable sz a (s.at' c k) = readable sz a s := rfl

theorem writable_at (sz : Size) (a : Word) (s : State) (c : Access) (k : Nat) :
    writable sz a (s.at' c k) = writable sz a s := rfl

theorem readVal_at (sz : Size) (a : Word) (s : State) (c : Access) :
    readVal sz a (s.at' c s.draws) = readVal sz a s := rfl

theorem written_at (sz : Size) (a v : Word) (s : State) (c : Access) (k : Nat) :
    ∃ c', written sz a v (s.at' c k) = (written sz a v s).at' c' k := by
  unfold written
  have hr : regionOf sz a (s.at' c k) = regionOf sz a s := rfl
  rw [hr]
  have hm : readReg (coreRegAt a) (s.at' c k) = readReg (coreRegAt a) s := by
    cases coreRegAt a <;> rfl
  cases regionOf sz a s <;> simp only
  · rw [hm]
    unfold writeReg
    cases coreRegAt a <;> simp only <;>
      first
      | exact ⟨_, rfl⟩
      | (rename_i x; cases x <;> exact ⟨_, rfl⟩)
      | (split <;> exact ⟨_, rfl⟩)
  · exact ⟨_, rfl⟩
  · unfold storageWrite
    cases sz <;> exact ⟨_, rfl⟩
  all_goals exact ⟨_, rfl⟩

theorem written_draws (sz : Size) (a v : Word) (s : State) :
    (written sz a v s).draws = s.draws := by
  unfold written
  cases regionOf sz a s <;> simp only
  · unfold writeReg
    cases coreRegAt a <;> simp only <;>
      first
      | rfl
      | (rename_i x; cases x <;> rfl)
      | (split <;> rfl)
  · rfl
  · unfold storageWrite
    cases sz <;> rfl

theorem at_self (s : State) : s.at' s.cur s.draws = s := rfl

/-- The state an instruction ends in, made by setting the pc. -/
theorem ends_setPc (p : PAddr) (u : State) (c : Access) (k : Nat) :
    Ends p u (setPc p (u.at' c k)) := rfl

/-- The state an instruction ends in, made by advancing the pc. -/
theorem ends_advance (n : Nat) {p : PAddr} {u : State} (h : u.pc = p) (c : Access) (k : Nat) :
    Ends (ahead n p) u (advance n (u.at' c k)) := by subst h; rfl

/-! ## Data accesses -/

/-- A read that is made gives `readVal`, and changes at most the record and the draws (R96). -/
theorem memRead_ready {sz : Size} {a : Word} {s : State} (h : readable sz a s = true) :
    ∃ c k, memRead sz a s = .ok (readVal sz a s, s.at' c k) := by
  simp only [readable, Bool.and_eq_true, Bool.not_eq_true'] at h
  obtain ⟨h1, h2⟩ := h
  simp only [memRead, h1, readVal, Bool.false_eq_true, if_false]
  cases hr : regionOf sz a s <;> rw [hr] at h2 <;> simp only at h2 ⊢
  · cases hh : readHazard sz a s
    · exact ⟨s.cur, s.draws, rfl⟩
    · rw [hh] at h2; simp at h2
  · exact ⟨s.cur, s.draws + 1, rfl⟩
  · exact ⟨s.cur, s.draws, rfl⟩
  · exact ⟨s.cur, s.draws, rfl⟩
  · exact ⟨s.cur, s.draws + 1, rfl⟩
  · simp at h2
  · cases hf : findCell s.prog (psvAddr a s).toNat
    · rw [hf] at h2; simp at h2
    · exact ⟨_, s.draws, rfl⟩
  · simp at h2

/-- A write that is made does what `written` says, the record apart (R97). -/
theorem memWrite_ready {sz : Size} {a v : Word} {s : State} (h : writable sz a s = true) :
    ∃ c, memWrite sz a v s = .ok ((written sz a v s).at' c s.draws) := by
  simp only [writable, Bool.and_eq_true, Bool.not_eq_true'] at h
  obtain ⟨h1, h2⟩ := h
  have hd := written_draws sz a v s
  simp only [memWrite, h1, written, Bool.false_eq_true, if_false] at hd ⊢
  cases hr : regionOf sz a s <;> rw [hr] at h2 hd <;> simp only at h2 hd ⊢
  · cases hh : writeHazard a s
    · simp only
      rw [← hd]
      unfold noteCoreWrite
      split <;> exact ⟨_, rfl⟩
    · rw [hh] at h2; simp at h2
  · exact ⟨_, rfl⟩
  · rw [← hd]
    split <;> exact ⟨_, rfl⟩
  · exact ⟨_, rfl⟩
  · exact ⟨_, rfl⟩
  all_goals simp at h2

/-- A read that answers is one that can be made. -/
theorem memRead_ok {sz : Size} {a v : Word} {s t : State} (h : memRead sz a s = .ok (v, t)) :
    readable sz a s = true ∧ v = readVal sz a s ∧ Like s t := by
  have hr : readable sz a s = true := by
    unfold memRead at h
    split at h
    · cases h
    · rename_i hm
      simp only [Bool.not_eq_true] at hm
      unfold readable
      simp only [hm]
      split at h <;> rename_i hr <;> simp only [hr]
      · split at h <;> rename_i hh
        · cases h
        · simp [hh]
      · rfl
      · rfl
      · rfl
      · rfl
      · cases h
      · split at h <;> rename_i hf
        · cases h
        · simp [hf]
      · cases h
  obtain ⟨c, k, e⟩ := memRead_ready hr
  rw [h] at e
  cases e
  exact ⟨hr, rfl, rfl⟩

/-- A write that answers is one that can be made. -/
theorem memWrite_ok {sz : Size} {a v : Word} {s t : State} (h : memWrite sz a v s = .ok t) :
    writable sz a s = true ∧ Like (written sz a v s) t := by
  have hw : writable sz a s = true := by
    unfold memWrite at h
    split at h
    · cases h
    · rename_i hm
      simp only [Bool.not_eq_true] at hm
      unfold writable
      simp only [hm]
      split at h <;> rename_i hr <;> simp only [hr]
      · split at h <;> rename_i hh
        · cases h
        · simp [hh]
      · rfl
      · rfl
      · rfl
      · rfl
      all_goals cases h
  obtain ⟨c, e⟩ := memWrite_ready (v := v) hw
  rw [h] at e
  cases e
  exact ⟨hw, rfl⟩

/-! ## Pointers -/

theorem useEA_ready {role : Role} {n : WReg} {s : State}
    (h : pointerOk role n (getW n s) s = true) :
    useEA role n s = .ok (getW n s, noteEA role n s) := by
  simp only [pointerOk, Bool.and_eq_true, Bool.or_eq_true, Option.isNone_iff_eq_none,
    Bool.not_eq_true'] at h
  obtain ⟨h1, h2⟩ := h
  have : stackCheck role n (getW n s) (noteEA role n s) = noteEA role n s := by
    unfold stackCheck
    split
    · rename_i hc
      rcases h2 with h2 | h2
      · simp [hc.1] at h2
      · have h3 : stackBad (getW n s) s = true := hc.2.2
        rw [h3] at h2
        cases h2
    · rfl
  simp [useEA, h1, this]

/-- A pointer that moves without a wrap. -/
theorem stepPtr_ready {role : Role} {n : WReg} {d : Int} {s : State}
    (h : wraps role n d s = false) :
    ∃ c, stepPtr role n d s = (moved n d s).at' c s.draws := by
  unfold stepPtr moved
  split
  · exact ⟨s.cur, rfl⟩
  · simp only [movePtr, h, Bool.false_eq_true, if_false]
    split <;> exact ⟨_, rfl⟩

/-! ## Operands (R161, R162) -/

theorem pointerOk_moved (role : Role) (n m : WReg) (d : Int) (ea : Word) (s : State) (c : Access)
    (k : Nat) : pointerOk role n ea ((moved m d s).at' c k) = pointerOk role n ea s := by
  unfold moved; split <;> rfl

/-- An indirect operand's address is formed in the state `pointedAt` gives. -/
theorem operandEA_ready {role : Role} {k : Nat} {m : Mode} {n : WReg} {s : State}
    (hw : wraps role n (preStep m * k) s = false)
    (hp : pointerOk role n (operandAddr k m n s) s = true) :
    ∃ c, operandEA role k m n s
      = .ok (operandAddr k m n s, (pointedAt k m n s).at' c s.draws) := by
  obtain ⟨c1, e1⟩ := stepPtr_ready hw
  have e2 : useEA role n ((pointedAt k m n s).at' c1 s.draws)
      = .ok (operandAddr k m n s, noteEA role n ((pointedAt k m n s).at' c1 s.draws)) :=
    useEA_ready (by rw [← hp]; exact pointerOk_moved _ _ _ _ _ _ _ _)
  refine ⟨(noteEA role n ((pointedAt k m n s).at' c1 s.draws)).cur, ?_⟩
  unfold operandEA
  rw [e1]
  exact e2

/-- A source operand that is ready is read (R161). -/
theorem srcOperand_ready {sz : Size} {m : Mode} {n : WReg} {s : State}
    (h : srcReady sz m n s = true) :
    ∃ c k, srcOperand sz m n s = .ok (srcVal sz m n s, (srcNext sz m n s).at' c k) := by
  unfold srcOperand srcVal srcNext
  by_cases hm : m = .direct
  · simp only [hm, if_true]; exact ⟨s.cur, s.draws, rfl⟩
  · simp only [srcReady, Bool.or_eq_true, beq_iff_eq, hm, false_or, Bool.and_eq_true] at h
    obtain ⟨⟨hw, hp⟩, hr⟩ := h
    simp only [noWrap, Bool.and_eq_true, Bool.not_eq_true'] at hw
    simp only [hm, if_false]
    obtain ⟨c1, e1⟩ := operandEA_ready hw.1 hp
    have hd : (pointedAt (Size.step sz) m n s).draws = s.draws := moved_draws _ _ _
    rw [← hd] at e1
    obtain ⟨c2, k2, e2⟩ := memRead_ready (s := (pointedAt (Size.step sz) m n s).at' c1
      (pointedAt (Size.step sz) m n s).draws) hr
    obtain ⟨c3, e3⟩ := stepPtr_ready (s := (pointedAt (Size.step sz) m n s).at' c2 k2) hw.2
    refine ⟨c3, k2, ?_⟩
    simp only [e1, ok_bind, e2, at_at, e3, readVal_at, moved_at, pure_ok]
    rfl

/-- A destination operand that is ready is written (R162). -/
theorem dstOperand_ready {sz : Size} {m : Mode} {n : WReg} {v : Word} {s : State}
    (h : dstReady sz m n s = true) :
    ∃ c, dstOperand sz m n v s = .ok ((dstNext sz m n v s).at' c s.draws) := by
  unfold dstOperand dstNext
  by_cases hm : m = .direct
  · simp only [hm, if_true]
    cases sz <;> exact ⟨_, rfl⟩
  · simp only [dstReady, Bool.or_eq_true, beq_iff_eq, hm, false_or, Bool.and_eq_true] at h
    obtain ⟨⟨hw, hp⟩, hr⟩ := h
    simp only [noWrap, Bool.and_eq_true, Bool.not_eq_true'] at hw
    simp only [hm, if_false]
    obtain ⟨c1, e1⟩ := operandEA_ready hw.1 hp
    obtain ⟨c2, e2⟩ := stepPtr_ready (role := .dest)
      (s := (pointedAt (Size.step sz) m n s).at' c1 s.draws) hw.2
    have hr' : writable sz (operandAddr (Size.step sz) m n s)
        ((pointerDone (Size.step sz) m n s).at' c2 s.draws) = true := by
      rw [← hr, writable_at]
      unfold pointerDone pointedAt moved
      split <;> split <;> rfl
    obtain ⟨c3, e3⟩ := memWrite_ready (v := v) hr'
    obtain ⟨c4, e4⟩ := written_at sz (operandAddr (Size.step sz) m n s) v
      (pointerDone (Size.step sz) m n s) c2 s.draws
    refine ⟨c3, ?_⟩
    simp only [e1, ok_bind, e2, at_at, moved_at, at_draws]
    rw [show moved n (postStep m * ↑(Size.step sz)) (pointedAt (Size.step sz) m n s)
      = pointerDone (Size.step sz) m n s from rfl, e3, e4]
    rfl

end Sys2Proof.Machine
end

