-- ==== Sys2Proof/Laws/Decode.lean ====
section
/-! SUPPORT. The fields of an encoded word: each field reads back what was placed there, and the codes
of the operand fields decode to the operands. -/

namespace Sys2Proof

theorem field_or (x y : PWord) (lo n : Nat) : field (x ||| y) lo n = field x lo n ||| field y lo n := by
  simp [field, BitVec.extractLsb'_or]

theorem field_place_same {n : Nat} (x : BitVec n) (lo : Nat) (h : lo + n ≤ 24) :
    field (place lo x) lo n = x := by
  apply BitVec.eq_of_getLsbD_eq
  intro i hi
  have h1 : lo + i < 24 := by omega
  simp [field, place, hi, h1]

theorem field_place_off {n : Nat} (x : BitVec n) (lo l k : Nat) (h : l + k ≤ lo ∨ lo + n ≤ l) :
    field (place lo x) l k = 0#k := by
  apply BitVec.eq_of_getLsbD_eq
  intro i hi
  simp [field, place, BitVec.getLsbD_extractLsb']
  intro a b c d
  rcases h with h | h
  · omega
  · exact BitVec.getLsbD_of_ge _ _ (by omega)

theorem field_literal (v l k : Nat) :
    field (BitVec.ofNat 24 v) l k = BitVec.ofNat k ((v % 2 ^ 24) >>> l) := by
  apply BitVec.eq_of_toNat_eq
  simp [field]

@[simp] theorem sizeOf_code (x : Size) : sizeOf x.code = x := by cases x <;> rfl
@[simp] theorem modeOf_code (x : Mode) : modeOf x.code = .ok x := by cases x <;> rfl
@[simp] theorem movModeOf_code (x : MovMode) : movModeOf x.code = x := by
  cases x with
  | plain m => cases m <;> rfl
  | offset => rfl
@[simp] theorem fileDestOf_code (x : FileDest) : fileDestOf x.code = x := by cases x <;> rfl
@[simp] theorem accOf_code (x : AccId) : accOf x.code = x := by cases x <;> rfl
@[simp] theorem dspRegOf_code (x : DspReg) : dspRegOf x.code = x := by cases x <;> rfl
@[simp] theorem mulPairOf_code (x : MulPair) : mulPairOf x.code = .ok x := by cases x <;> rfl
@[simp] theorem writeBackOf_code (x : WriteBack) : writeBackOf x.code = x := by cases x <;> rfl
@[simp] theorem prefetchOf_code (x : Option PreAccess) : prefetchOf (prefetchCode x) = x := by
  rcases x with _ | (⟨p, k⟩ | _)
  · rfl
  · cases p <;> cases k <;> rfl
  · rfl

/-- A write back code is never 11, which belongs to MPY and MPY.N. -/
theorem writeBack_code_ne (x : WriteBack) : x.code ≠ 3#2 := by cases x <;> decide

/-- A word whose top byte is 0 is NOP (R340). -/
theorem decode_nop {w : PWord} (h : field w 16 8 = 0#8) (w2 : Option PWord) :
    decode w w2 = .ok .nop := by
  have h1 : field w 20 4 = 0#4 := by
    apply BitVec.eq_of_getLsbD_eq
    intro i hi
    have := congrArg (fun v => v.getLsbD (4 + i)) h
    simp [field, show 4 + i < 8 by omega,
      show 16 + (4 + i) = 20 + i by omega] at this
    simp [field, BitVec.getLsbD_extractLsb', this]
  have h2 : field w 16 4 = 0#4 := by
    apply BitVec.eq_of_getLsbD_eq
    intro i hi
    have := congrArg (fun v => v.getLsbD i) h
    simp [field, show i < 8 by omega] at this
    simp [field, BitVec.getLsbD_extractLsb', this]
  simp [decode, decode0, h1, h2]

end Sys2Proof
end

