-- ==== Sys2Proof/Laws/Stack.lean ====
section
/-! SUPPORT. Frames of a data write and of a pointer, and what a push, a pop, two of either, a DSP
prefetch, a write back and an accumulator update do when nothing stops them. -/

namespace Sys2Proof.Machine

/-! ## Frames -/

/-- A data write changes no byte outside its access (R92, R97). -/
theorem written_memory (sz : Size) (a v : Word) (s : State) :
    SameMemoryBut sz a s (written sz a v s) := by
  intro b hb
  unfold written
  cases regionOf sz a s <;> simp only
  · unfold writeReg
    cases coreRegAt a <;> simp only <;>
      first
      | rfl
      | (rename_i x; cases x <;> rfl)
      | (split <;> rfl)
  · rfl
  · unfold storageWrite
    cases sz
    · simp only [Memory.read_write_other _ _ (hb.2 rfl), Memory.read_write_other _ _ hb.1]
    · exact Memory.read_write_other _ _ hb.1

/-- A data write that is not to a core register leaves every field but `ram`, `intcon` and the
record. -/
theorem written_not_core {sz : Size} {a v : Word} {s : State} (h : regionOf sz a s ≠ .core) :
    written sz a v s = { s with
      ram := (written sz a v s).ram, intcon := (written sz a v s).intcon } := by
  unfold written
  cases hr : regionOf sz a s <;> simp only
  · exact absurd hr h
  · rfl
  · unfold storageWrite; cases sz <;> rfl

theorem getW_written {sz : Size} {a v : Word} {s : State} (h : regionOf sz a s ≠ .core) (n : WReg) :
    getW n (written sz a v s) = getW n s := by
  rw [written_not_core h]; rfl

theorem sr_written {sz : Size} {a v : Word} {s : State} (h : regionOf sz a s ≠ .core) :
    (written sz a v s).sr = s.sr := by
  rw [written_not_core h]

theorem getW_moved (m n : WReg) (d : Int) (s : State) :
    getW m (moved n d s)
      = if m = n ∧ d ≠ 0 then fixedW n (getW n s + BitVec.ofInt 16 d) else getW m s := by
  unfold moved
  by_cases hd : d = 0
  · simp [hd]
  · simp only [hd, if_false, getW_putW]
    by_cases hm : m = n <;> simp [hm, hd]

theorem getW_moved_other {m n : WReg} (d : Int) (s : State) (h : m ≠ n) :
    getW m (moved n d s) = getW m s := by
  simp [getW_moved, h]

/-- A moved pointer changes the working registers alone. -/
theorem moved_eq (n : WReg) (d : Int) (s : State) :
    moved n d s = { s with w := (moved n d s).w } := by
  unfold moved; split <;> rfl

theorem regionOf_moved (sz : Size) (a : Word) (n : WReg) (d : Int) (s : State) :
    regionOf sz a (moved n d s) = regionOf sz a s := by
  rw [moved_eq]; rfl

theorem pointedAt_eq (k : Nat) (m : Mode) (n : WReg) (s : State) :
    pointedAt k m n s = { s with w := (pointedAt k m n s).w } := moved_eq _ _ _

theorem pointerDone_eq (k : Nat) (m : Mode) (n : WReg) (s : State) :
    pointerDone k m n s = { s with w := (pointerDone k m n s).w } := by
  unfold pointerDone
  rw [moved_eq, pointedAt_eq]

theorem getW_pointerDone {k : Nat} {m : Mode} {n j : WReg} {s : State}
    (h : j ∉ pointerRegs m n) : getW j (pointerDone k m n s) = getW j s := by
  unfold pointerRegs at h
  unfold pointerDone pointedAt
  split at h
  · rename_i hp
    simp [moved, hp.1, hp.2]
  · have hj : j ≠ n := by simpa using h
    rw [getW_moved_other _ _ hj, getW_moved_other _ _ hj]

theorem regionOf_pointerDone (sz : Size) (a : Word) (k : Nat) (m : Mode) (n : WReg) (s : State) :
    regionOf sz a (pointerDone k m n s) = regionOf sz a s := by
  rw [pointerDone_eq]; rfl

/-- A source operand changes its pointer alone. -/
theorem srcNext_eq (sz : Size) (m : Mode) (n : WReg) (s : State) :
    srcNext sz m n s = { s with w := (srcNext sz m n s).w } := by
  unfold srcNext
  split
  · rfl
  · exact pointerDone_eq _ _ _ _

theorem getW_srcNext {sz : Size} {m : Mode} {n j : WReg} {s : State} (h : j ∉ pointerRegs m n) :
    getW j (srcNext sz m n s) = getW j s := by
  unfold srcNext
  split
  · rfl
  · exact getW_pointerDone h

/-- The memory frame of a destination operand (R162). -/
theorem dstNext_frame (sz : Size) (m : Mode) (n : WReg) (v : Word) (s : State) :
    DstFrame sz m n s (dstNext sz m n v s) := by
  unfold dstNext
  refine ⟨fun hm b => ?_, fun hm b hb => ?_⟩
  · rw [if_pos hm]; cases sz <;> rfl
  · rw [if_neg hm, written_memory _ _ _ _ b hb, pointerDone_eq]

/-- What a destination operand changes when it does not write a core register's address. -/
theorem dstNext_other {sz : Size} {m : Mode} {n : WReg} {v : Word} {s : State}
    (h : ¬ dstIsCore sz m n s) :
    SameWBut (dstRegs m n) s (dstNext sz m n v s) ∧ (dstNext sz m n v s).sr = s.sr
      ∧ (dstNext sz m n v s).acca = s.acca ∧ (dstNext sz m n v s).accb = s.accb := by
  unfold dstNext dstRegs
  by_cases hm : m = .direct
  · simp only [hm, if_true]
    refine ⟨fun j hj => ?_, ?_⟩
    · have hj' : j ≠ n := by simpa using hj
      cases sz
      · simp only [setWSized]; rw [getW_setW, if_neg hj']
      · simp only [setWSized, setWByte, getW_noteModified]; rw [getW_putW, if_neg hj']
    · cases sz <;> exact ⟨rfl, rfl, rfl⟩
  · simp only [hm, if_false]
    have hr : regionOf sz (operandAddr (Size.step sz) m n s) (pointerDone (Size.step sz) m n s)
        ≠ .core := by
      rw [regionOf_pointerDone]; exact fun e => h ⟨hm, e⟩
    rw [written_not_core hr]
    refine ⟨fun j hj => ?_, ?_⟩
    · exact getW_pointerDone hj
    · rw [pointerDone_eq]; exact ⟨rfl, rfl, rfl⟩

theorem written_pc (sz : Size) (a v : Word) (s : State) : (written sz a v s).pc = s.pc := by
  unfold written
  cases regionOf sz a s <;> simp only
  · unfold writeReg
    cases coreRegAt a <;> simp only <;>
      first
      | rfl
      | (rename_i x; cases x <;> rfl)
      | (split <;> rfl)
  · rfl
  · unfold storageWrite
    cases sz <;> rfl

theorem dstNext_pc (sz : Size) (m : Mode) (n : WReg) (v : Word) (s : State) :
    (dstNext sz m n v s).pc = s.pc := by
  unfold dstNext
  split
  · cases sz <;> rfl
  · rw [written_pc, pointerDone_eq]

theorem srcNext_pc (sz : Size) (m : Mode) (n : WReg) (s : State) : (srcNext sz m n s).pc = s.pc := by
  rw [srcNext_eq]

/-- No operand form reads the record or the draws. -/
theorem dstNext_at (sz : Size) (m : Mode) (n : WReg) (v : Word) (s : State) (c : Access) (k : Nat) :
    ∃ c', dstNext sz m n v (s.at' c k) = (dstNext sz m n v s).at' c' k := by
  unfold dstNext
  split
  · cases sz <;> exact ⟨_, rfl⟩
  · have e : pointerDone (Size.step sz) m n (s.at' c k)
        = (pointerDone (Size.step sz) m n s).at' c k := by
      unfold pointerDone pointedAt; rw [moved_at, moved_at]
    have e2 : operandAddr (Size.step sz) m n (s.at' c k) = operandAddr (Size.step sz) m n s := by
      unfold operandAddr pointedAt; rw [moved_at]; rfl
    rw [e, e2]
    exact written_at _ _ _ _ _ _

theorem dstReady_at (sz : Size) (m : Mode) (n : WReg) (s : State) (c : Access) (k : Nat) :
    dstReady sz m n (s.at' c k) = dstReady sz m n s := by
  unfold dstReady noWrap operandAddr pointedAt
  rw [moved_at]
  rfl

theorem srcReady_at (sz : Size) (m : Mode) (n : WReg) (s : State) (c : Access) (k : Nat) :
    srcReady sz m n (s.at' c k) = srcReady sz m n s := by
  unfold srcReady noWrap operandAddr pointedAt
  rw [moved_at]
  rfl

theorem srcNext_at (sz : Size) (m : Mode) (n : WReg) (s : State) (c : Access) (k : Nat) :
    srcNext sz m n (s.at' c k) = (srcNext sz m n s).at' c k := by
  unfold srcNext pointerDone pointedAt
  split
  · rfl
  · rw [moved_at, moved_at]

/-- A destination operand written after any operation that left the record and the draws changed. -/
theorem dstOperand_at {sz : Size} {m : Mode} {n : WReg} {v : Word} {s : State}
    (h : dstReady sz m n s = true) (c : Access) (k : Nat) :
    ∃ c', dstOperand sz m n v (s.at' c k) = .ok ((dstNext sz m n v s).at' c' k) := by
  have h' : dstReady sz m n (s.at' c k) = true := by rw [dstReady_at]; exact h
  obtain ⟨c1, e1⟩ := dstOperand_ready (v := v) h'
  obtain ⟨c2, e2⟩ := dstNext_at sz m n v s c k
  exact ⟨c1, by rw [e1, e2]; rfl⟩

/-! ## Pushes and pops (R178) -/

/-- `Push(v)` is `Dst([W15++], 15, 0, v)` (R178). -/
theorem push_eq (v : Word) (s : State) :
    push .dest v s = dstOperand .word .postInc 15#4 v s := by
  simp [push, dstOperand, operandEA, stepPtr, preStep, postStep, Size.step]

/-- `Pop()` is `Src([--W15], 15, 0)` (R178). -/
theorem pop_eq (s : State) : pop s = srcOperand .word .preDec 15#4 s := by
  simp only [pop, srcOperand, operandEA, stepPtr, preStep, postStep, Size.step]
  simp only [reduceCtorEq, if_false, show ((-1 : Int) * (2 : Nat)) = -2 from rfl,
    show ((0 : Int) * (2 : Nat)) = 0 from rfl, show ¬ (-2 : Int) = 0 by decide, if_true, pure_ok]
  cases useEA .source 15#4 (movePtr .source 15#4 (-2) s) with
  | error e => rfl
  | ok u =>
    simp only [ok_bind]
    cases memRead .word u.1 u.2 with
    | error e => rfl
    | ok w => rfl

theorem push_ready {v : Word} {s : State} (h : pushReady s = true) (c : Access) (k : Nat) :
    ∃ c', push .dest v (s.at' c k) = .ok ((pushNext v s).at' c' k) := by
  simp only [push_eq]
  exact dstOperand_at h c k

/-- A read of a region whose reads draw no free value does not depend on the draws. -/
theorem readVal_draws {sz : Size} {a : Word} {s : State} (h : (regionOf sz a s).draws = false)
    (c : Access) (k : Nat) : readVal sz a (s.at' c k) = readVal sz a s := by
  unfold readVal
  have hr : regionOf sz a (s.at' c k) = regionOf sz a s := rfl
  rw [hr]
  cases hr : regionOf sz a s <;> simp only
  · cases coreRegAt a <;> rfl
  all_goals first | rfl | (rw [hr] at h; cases h)

/-- A read of a region whose reads draw no free value leaves the draws. -/
theorem memRead_draws {sz : Size} {a v : Word} {s t : State} (h : (regionOf sz a s).draws = false)
    (e : memRead sz a s = .ok (v, t)) : t.draws = s.draws := by
  unfold memRead at e
  split at e
  · cases e
  · cases hr : regionOf sz a s <;> simp only [hr] at e h
    · split at e <;> cases e <;> rfl
    · cases h
    · cases e; rfl
    · cases e; rfl
    · cases h
    · cases e
    · split at e <;> cases e <;> rfl
    · cases e

/-- An address in bounds of the stack is at least 0x0800. -/
theorem stackBad_bound {ea : Word} {s : State} (h : stackBad ea s = false) :
    0x800 ≤ ea.toNat := by
  simp only [stackBad, Bool.or_eq_false_iff, Config.ramBase] at h
  have := of_decide_eq_false h.2
  omega

/-- From 0x0800 on lie RAM, the PSV window, or nothing (R96). -/
theorem region_above {sz : Size} {a : Word} {s : State} (h : 0x800 ≤ a.toNat) :
    regionOf sz a s = .storage ∨ regionOf sz a s = .psv ∨ regionOf sz a s = .absent := by
  have h1 : ¬ a < 0x80#16 := by rw [BitVec.lt_def]; simp; omega
  have h2 : ¬ a < 0x800#16 := by rw [BitVec.lt_def]; simp; omega
  simp only [regionOf, h1, h2, if_false]
  split
  · simp
  · split <;> simp

/-- What a push that is made says of W15: it is even, in RAM, and the word there is storage. -/
theorem pushReady_spec {s : State} (h : pushReady s = true) :
    moduloOn s = false ∧ (getW 15#4 s).getLsbD 0 = false
      ∧ regionOf .word (getW 15#4 s) s = .storage ∧ stackBad (getW 15#4 s) s = false
      ∧ wraps .dest 15#4 2 s = false := by
  have ha : operandAddr 2 .postInc 15#4 s = getW 15#4 s := by
    simp [operandAddr, pointedAt, preStep, moved]
  have hp : pointedAt 2 .postInc 15#4 s = s := by simp [pointedAt, preStep, moved]
  simp only [pushReady, dstReady, Size.step, ha, noWrap, hp, preStep, postStep, Bool.or_eq_true,
    Bool.and_eq_true, Bool.not_eq_true', pointerOk, beq_iff_eq, reduceCtorEq, false_or,
    Option.isNone_iff_eq_none, bne_self_eq_false, Bool.false_eq_true] at h
  obtain ⟨⟨⟨_, hw⟩, hs, hb⟩, hwr⟩ := h
  have hbound := stackBad_bound hb
  have h1 := region_above (sz := .word) (s := s) hbound
  simp only [writable, Bool.and_eq_true, Bool.not_eq_true', misaligned] at hwr
  refine ⟨?_, by simpa using hwr.1, ?_, hb, by simpa using hw⟩
  · cases hm : moduloOn s
    · rfl
    · simp [pointerStop, isInit, hm] at hs
  · have := hwr.2
    rcases h1 with hr | hr | hr <;> rw [hr] at this
    · exact hr
    · cases this
    · cases this

/-- A pop reads at W15 less 2. -/
theorem popReady_spec {s : State} (h : popReady s = true) :
    moduloOn s = false
      ∧ (previously (fun e => e.access.wroteSplim) s = false)
      ∧ 0x800 ≤ (fixedW 15#4 (getW 15#4 s - 2#16)).toNat := by
  have ha : operandAddr 2 .preDec 15#4 s = fixedW 15#4 (getW 15#4 s - 2#16) := by
    simp [operandAddr, pointedAt, preStep, getW_moved, BitVec.sub_eq_add_neg]
  simp only [popReady, srcReady, Size.step, ha, noWrap, preStep, postStep, Bool.or_eq_true,
    Bool.and_eq_true, Bool.not_eq_true', pointerOk, beq_iff_eq, reduceCtorEq, false_or,
    Option.isNone_iff_eq_none, bne_self_eq_false, Bool.false_eq_true] at h
  obtain ⟨⟨_, hs, hb⟩, _⟩ := h
  refine ⟨?_, ?_, stackBad_bound hb⟩
  · cases hm : moduloOn s
    · rfl
    · simp [pointerStop, isInit, hm] at hs
  · cases hm : previously (fun e => e.access.wroteSplim) s
    · rfl
    · simp only [pointerStop, isInit, beq_self_eq_true, Bool.true_or, Bool.not_true,
        Bool.false_eq_true, if_false, true_and, hm, if_true] at hs
      split at hs <;> cases hs

theorem pop_ready {s : State} (h : popReady s = true) (c : Access) (k : Nat) :
    ∃ c' k', pop (s.at' c k) = .ok (popVal s, (popNext s).at' c' k') := by
  have h' : srcReady .word .preDec 15#4 (s.at' c k) = true := by rw [srcReady_at]; exact h
  have ha : operandAddr 2 .preDec 15#4 s = fixedW 15#4 (getW 15#4 s - 2#16) := by
    simp [operandAddr, pointedAt, preStep, getW_moved, BitVec.sub_eq_add_neg]
  have h2 : (regionOf .word (operandAddr 2 .preDec 15#4 s) (pointedAt 2 .preDec 15#4 s)).draws
      = false := by
    rw [ha]
    rcases region_above (sz := .word) (s := pointedAt 2 .preDec 15#4 s)
      (popReady_spec h).2.2 with e | e | e <;> rw [e] <;> rfl
  have hv : srcVal .word .preDec 15#4 (s.at' c k) = popVal s := by
    unfold popVal srcVal
    simp only [reduceCtorEq, if_false, Size.step]
    have e1 : pointedAt 2 .preDec 15#4 (s.at' c k) = (pointedAt 2 .preDec 15#4 s).at' c k := by
      unfold pointedAt; rw [moved_at]
    have e2 : operandAddr 2 .preDec 15#4 (s.at' c k) = operandAddr 2 .preDec 15#4 s := by
      unfold operandAddr; rw [e1]; rfl
    rw [e1, e2, readVal_draws h2]
  obtain ⟨c1, k1, e1⟩ := srcOperand_ready h'
  refine ⟨c1, k1, ?_⟩
  rw [pop_eq, e1, hv, srcNext_at]
  rfl

/-- The word `v` stored at W15, and W15 moved past it. -/
def pushed (v : Word) (s : State) : State :=
  storageWrite .word (getW 15#4 s) v (putW 15#4 (getW 15#4 s + 2#16) s)

theorem pushed_at (v : Word) (s : State) (c : Access) (k : Nat) :
    pushed v (s.at' c k) = (pushed v s).at' c k := rfl

theorem regionOf_pushed (sz : Size) (a v : Word) (s : State) :
    regionOf sz a (pushed v s) = regionOf sz a s := rfl

/-- A push to storage, whether it is checked or not (R178, R435). -/
theorem push_storage {role : Role} {v : Word} {s : State} (hm : moduloOn s = false)
    (he : (getW 15#4 s).getLsbD 0 = false) (hr : regionOf .word (getW 15#4 s) s = .storage)
    (hb : role ≠ .entry → stackBad (getW 15#4 s) s = false)
    (hw : wraps role 15#4 2 s = false) (hs : role ≠ .source) :
    ∃ c', push role v s = .ok ((pushed v s).at' c' s.draws) := by
  have h1 : useEA role 15#4 s = .ok (getW 15#4 s, noteEA role 15#4 s) := by
    have hp : pointerStop role 15#4 s = none := by simp [pointerStop, isInit, hm, hs]
    have hc : stackCheck role 15#4 (getW 15#4 s) (noteEA role 15#4 s)
        = noteEA role 15#4 s := by
      unfold stackCheck
      split
      · rename_i hc
        have h2 := hb hc.2.1
        have h3 : stackBad (getW 15#4 s) s = true := hc.2.2
        rw [h2] at h3
        cases h3
      · rfl
    simp [useEA, hp, hc]
  have h2 : ∃ c', movePtr role 15#4 2 (noteEA role 15#4 s)
      = (putW 15#4 (getW 15#4 s + 2#16) s).at' c' s.draws := by
    have hw' : wraps role 15#4 2 (noteEA role 15#4 s) = false := hw
    simp only [movePtr, hw', Bool.false_eq_true, if_false]
    split <;> exact ⟨_, rfl⟩
  obtain ⟨c1, e1⟩ := h2
  have hwr : writable .word (getW 15#4 s)
      ((putW 15#4 (getW 15#4 s + 2#16) s).at' c1 s.draws) = true := by
    have hr' : regionOf .word (getW 15#4 s)
        ((putW 15#4 (getW 15#4 s + 2#16) s).at' c1 s.draws) = .storage := hr
    simp only [writable, misaligned, he, Bool.and_false, Bool.not_false, hr', Bool.true_and]
  obtain ⟨c2, e2⟩ := memWrite_ready (v := v) hwr
  refine ⟨c2, ?_⟩
  have hwe : written .word (getW 15#4 s) v
      ((putW 15#4 (getW 15#4 s + 2#16) s).at' c1 s.draws) = (pushed v s).at' c1 s.draws := by
    have hr' : regionOf .word (getW 15#4 s)
        ((putW 15#4 (getW 15#4 s + 2#16) s).at' c1 s.draws) = .storage := hr
    simp only [written, hr']
    rfl
  rw [hwe] at e2
  simp only [push, h1, e1, ok_bind, e2]
  rfl

/-- What a push that is made changes: the word at W15, and W15. -/
theorem pushNext_eq {s : State} (h : pushReady s = true) (v : Word) :
    pushNext v s = storageWrite .word (getW 15#4 s) v (moved 15#4 2 s) := by
  have ha : operandAddr 2 .postInc 15#4 s = getW 15#4 s := by
    simp [operandAddr, pointedAt, preStep, moved]
  have hd : pointerDone 2 .postInc 15#4 s = moved 15#4 2 s := by
    simp [pointerDone, pointedAt, preStep, postStep, moved]
  unfold pushNext dstNext
  simp only [reduceCtorEq, if_false, Size.step, ha, hd, written, regionOf_moved,
    (pushReady_spec h).2.2.1]

/-- W15 is even where its word is aligned, so a step of 2 is exact. -/
theorem fixedW_even {v : Word} (h : v.getLsbD 0 = false) : fixedW 15#4 v = v := by
  unfold fixedW
  rw [if_pos rfl]
  apply BitVec.eq_of_getLsbD_eq
  intro i hi
  rw [BitVec.getLsbD_and]
  rcases i with _ | i
  · simp only [h, Bool.false_and]
  · have : (0xFFFE#16).getLsbD (i + 1) = true := by
      have : ∀ j : Fin 15, (0xFFFE#16).getLsbD (j.val + 1) = true := by decide
      exact this ⟨i, by omega⟩
    rw [this, Bool.and_true]

theorem even_add {v w : Word} (h : v.getLsbD 0 = false) (hw : w.getLsbD 0 = false) :
    (v + w).getLsbD 0 = false := by
  simp only [BitVec.getLsbD, Nat.testBit_zero, decide_eq_false_iff_not, BitVec.toNat_add] at *
  omega

theorem getW_pushNext {s : State} (h : pushReady s = true) (v : Word) (n : WReg) :
    getW n (pushNext v s) = if n = 15#4 then getW 15#4 s + 2#16 else getW n s := by
  rw [pushNext_eq h]
  show getW n (moved 15#4 2 s) = _
  rw [getW_moved]
  by_cases hn : n = 15#4
  · simp only [hn, ne_eq, show ¬ (2 : Int) = 0 by decide, not_false_eq_true, and_self, if_true]
    exact fixedW_even (even_add (pushReady_spec h).2.1 (by decide))
  · simp [hn]

/-- A storage word written reads back, whatever is written after it elsewhere. -/
theorem storage_read_word {m : Memory} (h : Memory.wf m = true) {a : Word}
    (ha : a.getLsbD 0 = false) (v : Word) :
    let t := Memory.write (Memory.write m a.toNat (v.extractLsb' 0 8)) (a + 1#16).toNat
      (v.extractLsb' 8 8)
    Memory.read t (a + 1#16).toNat ++ Memory.read t a.toNat = v := by
  have hne : a.toNat ≠ (a + 1#16).toNat := by
    simp only [BitVec.getLsbD, Nat.testBit_zero, decide_eq_false_iff_not] at ha
    simp only [BitVec.toNat_add, BitVec.toNat_ofNat]
    omega
  simp only [Memory.read_write_same (Memory.wf_write h _ _), Memory.read_write_other _ _ hne,
    Memory.read_write_same h]
  apply BitVec.eq_of_getLsbD_eq
  intro i hi
  rw [BitVec.getLsbD_append]
  by_cases h8 : i < 8
  · simp [h8]
  · simp only [h8, if_false, BitVec.getLsbD_extractLsb']
    rw [show 8 + (i - 8) = i by omega]
    simp [show i - 8 < 8 by omega]

/-- The bytes of two different aligned words are different. -/
theorem aligned_outside {a b : Word} (ha : a.getLsbD 0 = false) (hb : b.getLsbD 0 = false)
    (h : a ≠ b) : outside .word a b.toNat ∧ outside .word a (b + 1#16).toNat := by
  have hn : a.toNat ≠ b.toNat := fun e => h (BitVec.eq_of_toNat_eq e)
  simp only [BitVec.getLsbD, Nat.testBit_zero, decide_eq_false_iff_not] at ha hb
  have h1 := a.isLt
  have h2 := b.isLt
  unfold outside
  simp only [BitVec.toNat_add, BitVec.toNat_ofNat]
  refine ⟨⟨by omega, fun _ => by omega⟩, ⟨by omega, fun _ => by omega⟩⟩

/-- Two words stored one after the other, and W15 moved past them. -/
theorem stackedTwo_intro {lo hi : Word} {s t : State} (e1 : (getW 15#4 s).getLsbD 0 = false)
    (r1 : regionOf .word (getW 15#4 s) s = .storage)
    (r2 : regionOf .word (getW 15#4 s + 2#16) s = .storage)
    (hram : t.ram
      = (storageWrite .word (getW 15#4 s + 2#16) hi (storageWrite .word (getW 15#4 s) lo s)).ram)
    (hreg : ∀ a, regionOf .word a t = regionOf .word a s)
    (hw : ∀ n, getW n t = if n = 15#4 then getW 15#4 s + 4#16 else getW n s) :
    StackedTwo lo hi s t := by
  have e2 : (getW 15#4 s + 2#16).getLsbD 0 = false := even_add e1 (by decide)
  have hne : getW 15#4 s ≠ getW 15#4 s + 2#16 := by
    intro e
    have := congrArg BitVec.toNat e
    have h3 := (getW 15#4 s).isLt
    simp only [BitVec.toNat_add, BitVec.toNat_ofNat] at this
    omega
  have o1 := aligned_outside e2 e1 hne.symm
  refine ⟨?_, ?_, ?_, ?_⟩
  · rw [hw, if_pos rfl]
  · intro n hn
    have hn' : n ≠ 15#4 := by simpa using hn
    rw [hw, if_neg hn']
  · intro hwf
    constructor
    · simp only [memRead, misaligned, e1, Bool.and_false, Bool.false_eq_true, if_false, hreg, r1,
        storageRead, hram]
      congr 2
      simp only [storageWrite]
      rw [Memory.read_write_other _ _ (o1.2.2 rfl), Memory.read_write_other _ _ o1.2.1,
        Memory.read_write_other _ _ (o1.1.2 rfl), Memory.read_write_other _ _ o1.1.1]
      exact storage_read_word hwf e1 lo
    · simp only [memRead, misaligned, e2, Bool.and_false, Bool.false_eq_true, if_false, hreg, r2,
        storageRead, hram]
      congr 2
      have hwf' : Memory.wf (storageWrite .word (getW 15#4 s) lo s).ram = true :=
        Memory.wf_write (Memory.wf_write hwf _ _) _ _
      exact storage_read_word hwf' e2 hi
  · intro b b1 b2
    rw [hram]
    simp only [storageWrite]
    rw [Memory.read_write_other _ _ (b2.2 rfl), Memory.read_write_other _ _ b2.1,
      Memory.read_write_other _ _ (b1.2 rfl), Memory.read_write_other _ _ b1.1]

/-- What two pushes that are made change: two words of storage, and W15. -/
theorem pushTwo_eq {lo : Word} {s : State} (h : pushTwoReady lo s = true) (hi : Word) :
    (pushTwo lo hi s).ram
        = (storageWrite .word (getW 15#4 s + 2#16) hi (storageWrite .word (getW 15#4 s) lo s)).ram
      ∧ pushTwo lo hi s
        = { s with w := (pushTwo lo hi s).w, ram := (pushTwo lo hi s).ram }
      ∧ (∀ n, getW n (pushTwo lo hi s)
        = if n = 15#4 then getW 15#4 s + 4#16 else getW n s)
      ∧ regionOf .word (getW 15#4 s + 2#16) s = .storage := by
  simp only [pushTwoReady, Bool.and_eq_true] at h
  obtain ⟨h1, h2⟩ := h
  have hw1 := getW_pushNext h1 lo
  have hw2 := getW_pushNext h2 hi
  have ha : getW 15#4 (pushNext lo s) = getW 15#4 s + 2#16 := by rw [hw1]; simp
  have r2 := (pushReady_spec h2).2.2.1
  have hreg1 : ∀ a, regionOf .word a (pushNext lo s) = regionOf .word a s := by
    intro a
    rw [pushNext_eq h1, moved_eq 15#4 2 s]
    rfl
  rw [ha, hreg1] at r2
  refine ⟨?_, ?_, ?_, r2⟩
  · unfold pushTwo
    rw [pushNext_eq h2, ha, pushNext_eq h1, moved_eq, moved_eq 15#4 2 s]
    rfl
  · unfold pushTwo
    rw [pushNext_eq h2, ha, pushNext_eq h1, moved_eq, moved_eq 15#4 2 s]
    rfl
  · intro n
    unfold pushTwo
    rw [hw2]
    by_cases hn : n = 15#4
    · rw [if_pos hn, if_pos hn, ha, BitVec.add_assoc]; rfl
    · rw [if_neg hn, if_neg hn, hw1, if_neg hn]

/-- Two pushes that are made lay their words one after the other (R322, R450): so they stand in any
state with their registers and memory. -/
theorem pushTwo_spec {lo hi : Word} {s t : State} (h : pushTwoReady lo s = true)
    (hw : t.w = (pushTwo lo hi s).w) (hm : t.ram = (pushTwo lo hi s).ram)
    (hp : t.corcon.psv = s.corcon.psv) (hd : t.dev = s.dev) : StackedTwo lo hi s t := by
  obtain ⟨hram, _, hget, r2⟩ := pushTwo_eq h hi
  have h1 : pushReady s = true := by
    simp only [pushTwoReady, Bool.and_eq_true] at h
    exact h.1
  refine stackedTwo_intro (pushReady_spec h1).2.1 (pushReady_spec h1).2.2.1 r2 (hm.trans hram) ?_ ?_
  · intro a
    simp only [regionOf, hp, hd]
  · intro n
    rw [← hget n]
    unfold getW
    rw [hw]

theorem pushTwo_ready {lo hi : Word} {s : State} (h : pushTwoReady lo s = true) (c : Access)
    (k : Nat) : ∃ c', (do
      let t ← push .dest lo (s.at' c k)
      push .dest hi t) = .ok ((pushTwo lo hi s).at' c' k) := by
  simp only [pushTwoReady, Bool.and_eq_true] at h
  obtain ⟨c1, e1⟩ := push_ready (v := lo) h.1 c k
  obtain ⟨c2, e2⟩ := push_ready (v := hi) h.2 c1 k
  exact ⟨c2, by rw [e1]; exact e2⟩

/-! ## Stack accesses that may trap (R431 to R433, D46) -/

/-- The request for StackError with which an access that may raise it leaves `u`. -/
def State.orStack (u : State) (b : Bool) : State := { u with stackPending := u.stackPending || b }

theorem raiseStack_orStack (u : State) : raiseStack u = u.orStack true := by
  simp [raiseStack, State.orStack]

theorem written_orStack (sz : Size) (a v : Word) (s : State) (b : Bool) :
    written sz a v (s.orStack b) = (written sz a v s).orStack b := by
  unfold written
  have hr : regionOf sz a (s.orStack b) = regionOf sz a s := rfl
  have hm : readReg (coreRegAt a) (s.orStack b) = readReg (coreRegAt a) s := by
    cases coreRegAt a <;> rfl
  rw [hr]
  cases regionOf sz a s <;> simp only
  · rw [hm]
    unfold writeReg
    cases coreRegAt a <;> simp only <;>
      first
      | rfl
      | (rename_i x; cases x <;> rfl)
      | (split <;> rfl)
  all_goals first | rfl | (unfold storageWrite; cases sz <;> rfl)

/-- A stack address formed by a checked access, in bounds or not. -/
theorem useEA_stack {role : Role} {s : State} (h : pointerStop role 15#4 s = none)
    (he : role ≠ .entry) :
    ∃ c, useEA role 15#4 s
      = .ok (getW 15#4 s, (s.orStack (stackBad (getW 15#4 s) s)).at' c s.draws) := by
  refine ⟨(noteEA role 15#4 s).cur, ?_⟩
  have hb : stackBad (getW 15#4 s) (noteEA role 15#4 s) = stackBad (getW 15#4 s) s := rfl
  simp only [useEA, h, stackCheck, he, ne_eq, not_false_eq_true, true_and, hb]
  cases stackBad (getW 15#4 s) s <;> simp [raiseStack, State.orStack, State.at', noteEA, note]

/-- What a checked push does whose access is made: the word stored, W15 moved, and the request for
StackError where it raises one (R178, R423, R431 to R433). -/
theorem push_made {v : Word} {s : State} (h : pushMade s = true) :
    ∃ c, push .dest v s = .ok (((pushNext v s).orStack (pushTraps s)).at' c s.draws) := by
  simp only [pushMade, Bool.and_eq_true, Bool.not_eq_true'] at h
  have hp : pointerStop .dest 15#4 s = none := by simp [pointerStop, isInit, h.1]
  obtain ⟨c1, e1⟩ := useEA_stack hp (by decide)
  have hw : wraps .dest 15#4 2 ((s.orStack (stackBad (getW 15#4 s) s)).at' c1 s.draws)
      = (s.splimEn && decide (0xFFFE ≤ (getW 15#4 s).toNat)) := by
    have e : getW 15#4 ((s.orStack (stackBad (getW 15#4 s) s)).at' c1 s.draws) = getW 15#4 s := rfl
    have e2 : ((s.orStack (stackBad (getW 15#4 s) s)).at' c1 s.draws).splimEn = s.splimEn := rfl
    unfold wraps
    rw [e, e2]
    have : (2 : Int).toNat = 2 := rfl
    rw [this]
    by_cases hh : 0xFFFE ≤ (getW 15#4 s).toNat
    · simp [hh, show 65536 ≤ (getW 15#4 s).toNat + 2 by omega]
    · simp [hh, show ¬ 65536 ≤ (getW 15#4 s).toNat + 2 by omega]
  have hm : ∃ c, movePtr .dest 15#4 2 ((s.orStack (stackBad (getW 15#4 s) s)).at' c1 s.draws)
      = ((moved 15#4 2 s).orStack (pushTraps s)).at' c s.draws := by
    unfold movePtr
    rw [hw]
    refine ⟨{ c1 with modified := 15#4 :: c1.modified }, ?_⟩
    unfold pushTraps moved
    cases (s.splimEn && decide (0xFFFE ≤ (getW 15#4 s).toNat)) <;>
      cases stackBad (getW 15#4 s) s <;>
      simp [raiseStack, State.orStack, State.at', noteModified, note, putW, getW]
  obtain ⟨c2, e2⟩ := hm
  have hwr : writable .word (getW 15#4 s)
      (((moved 15#4 2 s).orStack (pushTraps s)).at' c2 s.draws) = true := by
    rw [← h.2, moved_eq]; rfl
  obtain ⟨c3, e3⟩ := memWrite_ready (v := v) hwr
  obtain ⟨c4, e4⟩ := written_at .word (getW 15#4 s) v ((moved 15#4 2 s).orStack (pushTraps s)) c2
    s.draws
  have hn : pushNext v s = written .word (getW 15#4 s) v (moved 15#4 2 s) := by
    simp [pushNext, dstNext, Size.step, operandAddr, pointerDone, pointedAt, preStep, postStep,
      moved]
  refine ⟨c3, ?_⟩
  simp only [push, e1, ok_bind, e2, e3, e4, written_orStack, hn]
  rfl

/-- A pop moves W15 back by a word and changes no other register of the array (R330). -/
theorem popNext_moved (s : State) : popNext s = moved 15#4 (-2) s := by
  simp [popNext, srcNext, pointerDone, pointedAt, preStep, postStep, Size.step, moved]

/-- What a pop does whose access is made: the word read, W15 moved, and the request for StackError
where it raises one. -/
theorem pop_made {s : State} (h : popMade s = true) :
    ∃ c, pop s = .ok (popVal s, ((popNext s).orStack (popTraps s)).at' c s.draws) := by
  simp only [popMade, Bool.and_eq_true, Bool.not_eq_true'] at h
  obtain ⟨⟨hm, hs⟩, hr⟩ := h
  have hwr : wraps .source 15#4 (-2) s = false := by simp [wraps]
  have hpt : pointedAt 2 .preDec 15#4 s = moved 15#4 (-2) s := rfl
  have hmv : movePtr .source 15#4 (-2) s = moved 15#4 (-2) s := by
    simp [movePtr, hwr, moved]
  rw [hpt] at hr
  have hp : pointerStop .source 15#4 (moved 15#4 (-2) s) = none := by
    rw [moved_eq]
    have h1 : moduloOn { s with w := (moved 15#4 (-2) s).w } = false := hm
    have h2 : previously (fun e => e.access.wroteSplim) { s with w := (moved 15#4 (-2) s).w }
      = false := hs
    simp [pointerStop, isInit, h1, h2]
  obtain ⟨c1, e1⟩ := useEA_stack hp (by decide)
  have ha : getW 15#4 (moved 15#4 (-2) s) = popAddr s := rfl
  have hb : stackBad (popAddr s) (moved 15#4 (-2) s) = popTraps s := by
    rw [moved_eq]; rfl
  rw [ha, hb, moved_draws] at e1
  have hr' : readableWord (popAddr s) ((moved 15#4 (-2) s).orStack (popTraps s)) = true := hr
  obtain ⟨c2, e2⟩ : ∃ c', memRead .word (popAddr s)
      (((moved 15#4 (-2) s).orStack (popTraps s)).at' c1 s.draws)
      = .ok (readVal .word (popAddr s) ((moved 15#4 (-2) s).orStack (popTraps s)),
        ((moved 15#4 (-2) s).orStack (popTraps s)).at' c' s.draws) := by
    simp only [readableWord, Bool.and_eq_true, Bool.not_eq_true'] at hr'
    obtain ⟨c2, k2, e⟩ := memRead_ready
      (s := ((moved 15#4 (-2) s).orStack (popTraps s)).at' c1 s.draws) hr'.1
    have hk := memRead_draws
      (s := ((moved 15#4 (-2) s).orStack (popTraps s)).at' c1 s.draws) hr'.2 e
    rw [readVal_draws hr'.2] at e
    simp only [at_at, at_draws] at e hk
    exact ⟨c2, by rw [e, hk]⟩
  have hv : readVal .word (popAddr s) ((moved 15#4 (-2) s).orStack (popTraps s)) = popVal s := by
    unfold popVal srcVal
    simp only [reduceCtorEq, if_false, Size.step]
    unfold readVal
    have hreg : regionOf .word (popAddr s) ((moved 15#4 (-2) s).orStack (popTraps s))
        = regionOf .word (operandAddr 2 .preDec 15#4 s) (pointedAt 2 .preDec 15#4 s) := rfl
    rw [hreg]
    cases regionOf .word (operandAddr 2 .preDec 15#4 s) (pointedAt 2 .preDec 15#4 s) <;> rfl
  refine ⟨c2, ?_⟩
  simp only [pop, hmv, e1, ok_bind, e2, hv, popNext_moved]

/-- What the two pops of a return do whose accesses are made: the words read, W15 moved, and the request
for StackError where either raises one (R330, R423). -/
theorem popTwo_made {s : State} (h1 : popMade s = true) (h2 : popMade (popNext s) = true) :
    ∃ u c, pop s = .ok (popHi s, u)
      ∧ pop u = .ok (popLo s,
        ((popTwo s).orStack (popTraps s || popTraps (popNext s))).at' c s.draws) := by
  obtain ⟨c1, e1⟩ := pop_made h1
  have h : popMade (((popNext s).orStack (popTraps s)).at' c1 s.draws) = true := h2
  obtain ⟨c2, e2⟩ := pop_made h
  refine ⟨_, c2, e1, ?_⟩
  have hv : popVal (((popNext s).orStack (popTraps s)).at' c1 s.draws) = popLo s := by
    unfold popLo popVal srcVal readVal
    simp only [popMade, Bool.and_eq_true, readableWord] at h2
    have hd := h2.2.2
    have hu : regionOf .word
          (operandAddr (Size.step .word) .preDec 15#4
            (((popNext s).orStack (popTraps s)).at' c1 s.draws))
          (pointedAt (Size.step .word) .preDec 15#4
            (((popNext s).orStack (popTraps s)).at' c1 s.draws))
        = regionOf .word (popAddr (popNext s)) (pointedAt 2 .preDec 15#4 (popNext s)) := rfl
    have hs : regionOf .word (operandAddr (Size.step .word) .preDec 15#4 (popNext s))
          (pointedAt (Size.step .word) .preDec 15#4 (popNext s))
        = regionOf .word (popAddr (popNext s)) (pointedAt 2 .preDec 15#4 (popNext s)) := rfl
    simp only [reduceCtorEq, if_false, hu, hs]
    generalize regionOf .word (popAddr (popNext s)) (pointedAt 2 .preDec 15#4 (popNext s)) = r at hd
    cases r <;> rfl
  have hn : popNext (((popNext s).orStack (popTraps s)).at' c1 s.draws)
      = ((popTwo s).orStack (popTraps s)).at' c1 s.draws := by
    rw [popTwo, popNext_moved, popNext_moved (popNext s), moved_eq, moved_eq 15#4 (-2) (popNext s)]
    rfl
  have ht : popTraps (((popNext s).orStack (popTraps s)).at' c1 s.draws) = popTraps (popNext s) := rfl
  rw [e2, hv, hn, ht]
  simp only [State.orStack, State.at', Bool.or_assoc]

/-- A return's two pops (R330). -/
theorem popTwo_ready {s : State} (h : popTwoReady s = true) (c : Access) (k : Nat) :
    ∃ c1 k1 c' k', pop (s.at' c k) = .ok (popHi s, (popNext s).at' c1 k1)
      ∧ pop ((popNext s).at' c1 k1) = .ok (popLo s, (popTwo s).at' c' k') := by
  simp only [popTwoReady, Bool.and_eq_true] at h
  obtain ⟨c1, k1, e1⟩ := pop_ready h.1 c k
  obtain ⟨c2, k2, e2⟩ := pop_ready h.2 c1 k1
  exact ⟨c1, k1, c2, k2, e1, e2⟩

theorem popNext_eq (s : State) : popNext s = { s with w := (popNext s).w } := srcNext_eq _ _ _ _

theorem popTwo_eq (s : State) : popTwo s = { s with w := (popTwo s).w } := by
  unfold popTwo
  rw [popNext_eq (popNext s), popNext_eq s]

theorem getW_popTwo {n : WReg} (s : State) (h : n ≠ 15#4) : getW n (popTwo s) = getW n s := by
  unfold popTwo popNext
  rw [getW_srcNext (by simpa [pointerRegs, preStep] using h),
    getW_srcNext (by simpa [pointerRegs, preStep] using h)]

end Sys2Proof.Machine
end

