-- ==== Sys2Proof/Laws/Dsp.lean ====
section
/-! SUPPORT. What an accumulator update, a prefetch, a write back and the data moves of a multiply do
when nothing stops them. -/

namespace Sys2Proof.Machine

/-! ## Accumulator updates (R251) -/

/-- What an update does: its stores, and the request for the trap where it raises one. -/
theorem accUpdate_eq (x : AccId) (r : Int) (m s : State) : accUpdate x r m s = accDone x r m s := by
  unfold accUpdate accDone accStore
  cases accTraps x r m <;> cases x <;> simp [raiseArith, setAccStatus, setAcc]

theorem accDone_at (x : AccId) (r : Int) (m s : State) (c : Access) (k : Nat) :
    accDone x r m (s.at' c k) = (accDone x r m s).at' c k := by
  cases x <;> rfl

/-- An update reads the modes alone of the state its instruction began in (R290). -/
theorem accDone_modes (x : AccId) (r : Int) (m s : State) (c : Access) (k : Nat) :
    accDone x r (m.at' c k) s = accDone x r m s := by
  cases x <;> rfl

/-- An update that is ready raises no trap that R457 refuses. -/
theorem accDone_nested {x : AccId} {r : Int} {m s : State} (h : accReady x r m = true)
    (hs : s.stackPending = m.stackPending) (ha : s.arithPending = m.arithPending) :
    trapNested m (accDone x r m s) = false := by
  apply trapNested_below
  · left; rw [← hs]; cases x <;> rfl
  · simp only [accReady, Bool.or_eq_true, Bool.not_eq_true', decide_eq_true_eq] at h
    rcases h with h | h
    · left; simp [accDone, h, ha]
    · exact .inr h

/-- An update leaves the registers, the memory and the pc, and no status bit but its own. -/
theorem accDone_fields (x : AccId) (r : Int) (m s : State) :
    (accDone x r m s).w = s.w ∧ (accDone x r m s).ram = s.ram ∧ (accDone x r m s).pc = s.pc
      ∧ OnlyAccStatus s (accDone x r m s) := by
  cases x <;> exact ⟨rfl, rfl, rfl, rfl⟩

/-- A word placed in bits 31:16 of an accumulator value (R281). -/
theorem wordToAcc_toInt (v : Word) : (wordToAcc v).toInt = v.toInt * 2 ^ 16 := by
  unfold wordToAcc
  rw [BitVec.toInt_signExtend_of_le (by decide)]
  have h : (v ++ 0#16 : BitVec 32).toNat = v.toNat * 65536 := by
    simp only [BitVec.toNat_append, BitVec.toNat_ofNat, Nat.zero_mod, Nat.or_zero]
    rw [Nat.shiftLeft_eq]
  have := v.isLt
  rw [BitVec.toInt_eq_toNat_cond, BitVec.toInt_eq_toNat_cond, h]
  split <;> split <;> push_cast <;> omega

/-! ## Prefetches (R266) -/

theorem useEA_plain {role : Role} {n : WReg} {s : State} (hn : n ≠ 15#4) (hi : isInit n s = true)
    (hm : moduloOn s = false) : useEA role n s = .ok (getW n s, noteEA role n s) := by
  apply useEA_ready
  simp [pointerOk, pointerStop, hn, hi, hm]

theorem wraps_other {role : Role} {n : WReg} (hn : n ≠ 15#4) (d : Int) (s : State) :
    wraps role n d s = false := by
  simp [wraps, hn]

theorem memRead_word {a : Word} {s : State} (h : readableWord a s = true) (c : Access) (k : Nat) :
    ∃ c', memRead .word a (s.at' c k) = .ok (readVal .word a s, s.at' c' k) := by
  simp only [readableWord, Bool.and_eq_true, Bool.not_eq_true'] at h
  obtain ⟨c1, k1, e⟩ := memRead_ready (s := s.at' c k) h.1
  have hk : k1 = k := memRead_draws (s := s.at' c k) h.2 e
  rw [readVal_draws h.2, hk] at e
  exact ⟨c1, e⟩

theorem prefetchPtr_stack (side : Side) (p : PrePtr) : prefetchPtr side p ≠ 15#4 := by
  cases side <;> cases p <;> decide

/-- The address of a prefetch that is formed. -/
theorem prefetchEA_ready {side : Side} {a : PreAccess} {s : State}
    (h : prefetchFormed side a s = true) (c : Access) (k : Nat) :
    ∃ c', prefetchEA side a (s.at' c k) = .ok (prefetchAddr side a s, s.at' c' k) := by
  simp only [prefetchFormed, Bool.and_eq_true, Bool.not_eq_true', Bool.or_eq_true] at h
  obtain ⟨⟨hi, ho⟩, hm⟩ := h
  cases a with
  | modify p j =>
    have e1 : useEA .source (prefetchPtr side p) (s.at' c k) = _ :=
      useEA_plain (prefetchPtr_stack side p) hi hm
    obtain ⟨c1, hc⟩ := noteEA_at .source (prefetchPtr side p) s c k
    rw [hc] at e1
    exact ⟨c1, e1⟩
  | offset =>
    have e1 : useEA .source (prefetchPtr side .upper) (s.at' c k) = _ :=
      useEA_plain (prefetchPtr_stack side _) hi hm
    obtain ⟨c1, hc⟩ := noteEA_at .source (prefetchPtr side .upper) s c k
    rw [hc] at e1
    have hi2 : isInit 12#4 (s.at' c1 k) = true := by
      rcases ho with ho | ho
      · simp at ho
      · exact ho
    have e2 : useEA .source 12#4 (s.at' c1 k) = _ := useEA_plain (by decide) hi2 hm
    obtain ⟨c2, hc2⟩ := noteEA_at .source 12#4 s c1 k
    rw [hc2] at e2
    have hi3 : isInit 12#4 (s.at' c k) = true := hi2
    exact ⟨c2, by simp only [prefetchEA, hi3, if_true, e1, ok_bind, e2, getW_at, pure_ok]; rfl⟩

/-- The read of a prefetch that is made. -/
theorem prefetchRead_ready {side : Side} {ea : Word} {u : State}
    (h : prefetchReads side ea u = true) (c : Access) (k : Nat) :
    ∃ c', prefetchRead side ea (u.at' c k) = .ok (readVal .word ea u, u.at' c' k) := by
  simp only [prefetchReads, Bool.and_eq_true] at h
  obtain ⟨c1, e⟩ := memRead_word h.2 c k
  have hb : inBlock side ea (u.at' c k) = true := h.1
  exact ⟨c1, by simp only [prefetchRead, hb, if_true, e]⟩

/-- The pointer modification of a prefetch. -/
theorem prefetchMod_at (side : Side) (a : PreAccess) (u : State) (c : Access) (k : Nat) :
    ∃ c', prefetchMod side a (u.at' c k) = (prefetchNext side a u).at' c' k := by
  cases a with
  | modify p j =>
    obtain ⟨c1, e⟩ := stepPtr_ready (s := u.at' c k)
      (wraps_other (role := .source) (prefetchPtr_stack side p) (prefetchStep j) (u.at' c k))
    refine ⟨c1, ?_⟩
    simp only [prefetchMod, e, moved_at]
    rfl
  | offset => exact ⟨c, by simp [prefetchMod, prefetchNext, prefetchMove, moved]⟩

/-- A prefetch that is ready reads its word and moves its pointer. -/
theorem prefetchOne_ready {side : Side} {a : PreAccess} {s : State}
    (h : prefetchReady side a s = true) (c : Access) (k : Nat) :
    ∃ c', prefetchOne side a (s.at' c k)
      = .ok (readVal .word (prefetchAddr side a s) s, (prefetchNext side a s).at' c' k) := by
  simp only [prefetchReady, Bool.and_eq_true] at h
  obtain ⟨c1, e1⟩ := prefetchEA_ready h.1 c k
  obtain ⟨c2, e2⟩ := prefetchRead_ready h.2 c1 k
  obtain ⟨c3, e3⟩ := prefetchMod_at side a s c2 k
  exact ⟨c3, by simp only [prefetchOne, e1, ok_bind, e2, e3, pure_ok]⟩

/-- A prefetch that may be absent: its address is formed and its word read. -/
theorem prefetchOpt_ready {side : Side} {a : Option PreAccess} {s : State}
    (h : prefetchOptReady side a s = true) :
    (∀ c k, ∃ c', prefetchOptEA side a (s.at' c k)
      = .ok (a.map (fun a => prefetchAddr side a s), s.at' c' k))
    ∧ ∀ c k, ∃ c', prefetchOptRead side (a.map (fun a => prefetchAddr side a s)) (s.at' c k)
      = .ok (prefetchOptVal side a s, s.at' c' k) := by
  cases a with
  | none => exact ⟨fun c k => ⟨c, rfl⟩, fun c k => ⟨c, rfl⟩⟩
  | some a =>
    simp only [prefetchOptReady, prefetchReady, Bool.and_eq_true] at h
    refine ⟨fun c k => ?_, fun c k => ?_⟩
    · obtain ⟨c', e⟩ := prefetchEA_ready h.1 c k
      exact ⟨c', by simp only [prefetchOptEA, e, ok_bind]; rfl⟩
    · obtain ⟨c', e⟩ := prefetchRead_ready h.2 c k
      exact ⟨c', by simp only [Option.map_some, prefetchOptRead, e, ok_bind]; rfl⟩

theorem prefetchOptMod_at (side : Side) (a : Option PreAccess) (s : State) (c : Access) (k : Nat) :
    ∃ c', prefetchOptMod side a (s.at' c k) = (prefetchOptNext side a s).at' c' k := by
  cases a with
  | none => exact ⟨c, rfl⟩
  | some a => exact prefetchMod_at side a s c k

/-- The pointer modification of a prefetch changes its pointer alone. -/
theorem prefetchOptNext_eq (side : Side) (a : Option PreAccess) (s : State) :
    prefetchOptNext side a s = { s with w := (prefetchOptNext side a s).w } := by
  cases a with
  | none => rfl
  | some a => exact moved_eq _ _ _

theorem getW_prefetchOptNext {side : Side} {xd : DspReg} {a : Option PreAccess} {n : WReg} {s : State}
    (h : n ∉ prefetchRegs side xd a) : getW n (prefetchOptNext side a s) = getW n s := by
  cases a with
  | none => rfl
  | some a =>
    simp only [prefetchRegs] at h
    simp only [prefetchOptNext, prefetchNext]
    split at h
    · rename_i hz; simp [moved, hz]
    · simp only [List.mem_cons, List.not_mem_nil, or_false, not_or] at h
      exact getW_moved_other _ _ h.1

/-- A pointer modification leaves which addresses may be written as it was. -/
theorem writable_prefetchOptNext (sz : Size) (ea : Word) (side : Side) (a : Option PreAccess)
    (s : State) : writable sz ea (prefetchOptNext side a s) = writable sz ea s := by
  rw [prefetchOptNext_eq]; rfl

theorem getW_setFetched {side : Side} {xd : DspReg} {a : Option PreAccess} {n : WReg}
    {s t : State} (h : n ∉ prefetchRegs side xd a) :
    getW n (setFetched xd (prefetchOptVal side a s) t) = getW n t := by
  cases a with
  | none => rfl
  | some a =>
    simp only [prefetchRegs] at h
    simp only [prefetchOptVal, Option.map_some, setFetched]
    rw [getW_setW, if_neg]
    split at h <;> simp at h <;> tauto

/-! ## The write back (R270) -/

/-- Where a write back goes, if it is ready. -/
theorem writeBackEA_ready {b : WriteBack} {s : State} (h : writeBackReady b s = true)
    (c : Access) (k : Nat) :
    ∃ ea c', writeBackEA b (s.at' c k) = .ok (ea, s.at' c' k)
      ∧ (b = .w13Inc → ea = getW 13#4 s) := by
  cases b with
  | none => exact ⟨_, c, rfl, by simp⟩
  | w13 => exact ⟨_, c, rfl, by simp⟩
  | w13Inc =>
    simp only [writeBackReady, Bool.and_eq_true, Bool.not_eq_true'] at h
    have e : useEA .dest 13#4 (s.at' c k) = _ := useEA_plain (by decide) h.1.1 h.1.2
    obtain ⟨c1, hc⟩ := noteEA_at .dest 13#4 s c k
    rw [hc] at e
    exact ⟨_, c1, e, fun _ => rfl⟩

/-- A write back is made where its address may be written. -/
theorem writeBack_ready {b : WriteBack} {ea v a : Word} {s : State}
    (ha : b = .w13Inc → ea = a ∧ writable .word a s = true) (c : Access) (k : Nat) :
    ∃ c', writeBack b ea v (s.at' c k) = .ok ((writeBackNext b a v s).at' c' k) := by
  cases b with
  | none => exact ⟨c, rfl⟩
  | w13 => exact ⟨_, rfl⟩
  | w13Inc =>
    obtain ⟨rfl, hw⟩ := ha rfl
    obtain ⟨c2, e2⟩ := stepPtr_ready (role := .dest) (n := 13#4) (d := 2) (s := s.at' c k)
      (wraps_other (by decide) _ _)
    have e2' : movePtr .dest 13#4 2 (s.at' c k) = (moved 13#4 2 s).at' c2 k := by
      simpa [stepPtr, moved_at] using e2
    have hw' : writable .word ea ((moved 13#4 2 s).at' c2 k) = true := by
      rw [writable_at, ← hw]; rw [moved_eq]; rfl
    obtain ⟨c3, e3⟩ := memWrite_ready (v := v) hw'
    obtain ⟨c4, e4⟩ := written_at .word ea v (moved 13#4 2 s) c2 k
    refine ⟨c3, ?_⟩
    simp only [writeBack, e2', e3, e4]
    rfl

theorem setFetched_at (r : DspReg) (v : Option Word) (s : State) (c : Access) (k : Nat) :
    ∃ c', setFetched r v (s.at' c k) = (setFetched r v s).at' c' k := by
  cases v with
  | none => exact ⟨c, rfl⟩
  | some v => exact ⟨_, rfl⟩

/-! ## A multiply as a whole (R272) -/

/-- What the write of SR does again after an update, whatever the records hold. -/
theorem writeBackWins_at (b : WriteBack) (ea v : Word) (s : State) (c : Access) (k : Nat) :
    writeBackWins b ea v (s.at' c k) = (writeBackWins b ea v s).at' c k := by
  unfold writeBackWins
  split <;> rfl

/-- A multiply whose data moves are ready is made. -/
theorem multiplyAcc_ready {f : Int → Int → Int} {wm wn : WReg} {x : AccId} {xd yd : DspReg}
    {px py : Option PreAccess} {b : WriteBack} {s : State}
    (h : movesReady xd yd px py b s = true) :
    ∃ (c : Access) (k : Nat),
      multiplyAcc f wm wn x xd yd px py b s
        = .ok (advance 1 ((mulNext (f (getAcc x s).toInt (dspMul (getW wm s) (getW wn s) s).1)
          x xd yd px py b s).at' c k)) := by
  simp only [movesReady, Bool.and_eq_true, Bool.not_eq_true'] at h
  obtain ⟨⟨⟨hd, hb⟩, hx⟩, hy⟩ := h
  obtain ⟨k, hk⟩ : ∃ k, (dspMul (getW wm s) (getW wn s) s).2 = s.at' s.cur k := by
    unfold dspMul drawBelow
    split
    · exact ⟨s.draws + 1, rfl⟩
    · exact ⟨s.draws, rfl⟩
  generalize hp : (dspMul (getW wm s) (getW wn s) s).1 = p
  have hm : dspMul (getW wm s) (getW wn s) s = (p, s.at' s.cur k) := Prod.ext hp hk
  obtain ⟨c1, e1⟩ := (prefetchOpt_ready hx).1 s.cur k
  obtain ⟨c2, e2⟩ := (prefetchOpt_ready hy).1 c1 k
  obtain ⟨ea, c3, e3, hea⟩ := writeBackEA_ready hb c2 k
  obtain ⟨c4, e4⟩ := (prefetchOpt_ready hx).2 c3 k
  obtain ⟨c5, e5⟩ := (prefetchOpt_ready hy).2 c4 k
  obtain ⟨c6, e6⟩ := prefetchOptMod_at .x px s c5 k
  obtain ⟨c7, e7⟩ := prefetchOptMod_at .y py (prefetchOptNext .x px s) c6 k
  have hw : b = .w13Inc → ea = getW 13#4 s ∧ writable .word (getW 13#4 s)
      (prefetchOptNext .y py (prefetchOptNext .x px s)) = true := by
    rintro rfl
    simp only [writeBackReady, Bool.and_eq_true] at hb
    exact ⟨hea rfl, by rw [writable_prefetchOptNext, writable_prefetchOptNext, hb.2]⟩
  obtain ⟨c8, e8⟩ := writeBack_ready (v := writeBackValue x s) hw c7 k
  generalize hu : writeBackNext b (getW 13#4 s) (writeBackValue x s)
    (prefetchOptNext .y py (prefetchOptNext .x px s)) = u at e8
  obtain ⟨c9, e9⟩ := setFetched_at xd (prefetchOptVal .x px s) u c8 k
  obtain ⟨c10, e10⟩ := setFetched_at yd (prefetchOptVal .y py s)
    (setFetched xd (prefetchOptVal .x px s) u) c9 k
  have hs : ∀ t, writeBackWins b ea (writeBackValue x s) t
      = writeBackWins b (getW 13#4 s) (writeBackValue x s) t := by
    intro t
    unfold writeBackWins
    by_cases hb' : b = .w13Inc
    · rw [hea hb']
    · simp [hb']
  refine ⟨c10, k, ?_⟩
  simp only [multiplyAcc, hm, requireDistinct, hd, Bool.false_eq_true, if_false, ok_bind, e1, e2, e3,
    e4, e5, e6, e7, e8, e9, e10, pure_ok, accUpdate_eq, accDone_at, hs, writeBackWins_at, mulNext,
    movesNext, hu]

end Sys2Proof.Machine
end

