-- ==== Sys2Proof/Laws/PerInstr.lean ====
section
/-! SUPPORT. The second word of a two-word instruction, fetched alone, is a NOP (R131): one lemma per
constructor of `Instr`. -/

namespace Sys2Proof.Laws

/-- The second word, where the instruction has one, decodes to NOP whatever follows it (R131). -/
def SecondWord.Statement (i : Instr) : Prop :=
  ∀ v w2, encodeSecond i = some v → decode v w2 = .ok .nop

theorem SecondWord.movWsWd (sz : Size) (wb : WReg) (dm : MovMode) (wd : WReg) (sm : MovMode) (ws : WReg) :
    SecondWord.Statement (.movWsWd sz wb dm wd sm ws) := fun _ _ h => by cases h
theorem SecondWord.movFWnd (f : BitVec 15) (wd : WReg) :
    SecondWord.Statement (.movFWnd f wd) := fun _ _ h => by cases h
theorem SecondWord.movWregF (sz : Size) (f : BitVec 13) :
    SecondWord.Statement (.movWregF sz f) := fun _ _ h => by cases h
theorem SecondWord.movLit16Wnd (lit : Word) (wd : WReg) :
    SecondWord.Statement (.movLit16Wnd lit wd) := fun _ _ h => by cases h
theorem SecondWord.movdLoad (wd : BitVec 3) (sm : Mode) (ws : WReg) :
    SecondWord.Statement (.movdLoad wd sm ws) := fun _ _ h => by cases h
theorem SecondWord.movdStore (dm : Mode) (wd : WReg) (ws : BitVec 3) :
    SecondWord.Statement (.movdStore dm wd ws) := fun _ _ h => by cases h
theorem SecondWord.pushS :
    SecondWord.Statement (.pushS) := fun _ _ h => by cases h
theorem SecondWord.popS :
    SecondWord.Statement (.popS) := fun _ _ h => by cases h
theorem SecondWord.lnk (lit : BitVec 13) :
    SecondWord.Statement (.lnk lit) := fun _ _ h => by cases h
theorem SecondWord.ulnk :
    SecondWord.Statement (.ulnk) := fun _ _ h => by cases h
theorem SecondWord.se (wd : WReg) (sm : Mode) (ws : WReg) :
    SecondWord.Statement (.se wd sm ws) := fun _ _ h => by cases h
theorem SecondWord.ze (wd : WReg) (sm : Mode) (ws : WReg) :
    SecondWord.Statement (.ze wd sm ws) := fun _ _ h => by cases h
theorem SecondWord.addWbWsWd (sz : Size) (wb : WReg) (dm : Mode) (wd : WReg) (sm : Mode) (ws : WReg) :
    SecondWord.Statement (.addWbWsWd sz wb dm wd sm ws) := fun _ _ h => by cases h
theorem SecondWord.addF (sz : Size) (d : FileDest) (f : BitVec 13) :
    SecondWord.Statement (.addF sz d f) := fun _ _ h => by cases h
theorem SecondWord.bset (bit : BitVec 4) (f : BitVec 12) :
    SecondWord.Statement (.bset bit f) := fun _ _ h => by cases h
theorem SecondWord.btsc (bit : BitVec 4) (f : BitVec 12) :
    SecondWord.Statement (.btsc bit f) := fun _ _ h => by cases h
theorem SecondWord.asrLit (wb wd : WReg) (lit : BitVec 4) :
    SecondWord.Statement (.asrLit wb wd lit) := fun _ _ h => by cases h
theorem SecondWord.asrReg (wb wd ws : WReg) :
    SecondWord.Statement (.asrReg wb wd ws) := fun _ _ h => by cases h
theorem SecondWord.lsrLit (wb wd : WReg) (lit : BitVec 4) :
    SecondWord.Statement (.lsrLit wb wd lit) := fun _ _ h => by cases h
theorem SecondWord.lsrReg (wb wd ws : WReg) :
    SecondWord.Statement (.lsrReg wb wd ws) := fun _ _ h => by cases h
theorem SecondWord.slLit (wb wd : WReg) (lit : BitVec 4) :
    SecondWord.Statement (.slLit wb wd lit) := fun _ _ h => by cases h
theorem SecondWord.slReg (wb wd ws : WReg) :
    SecondWord.Statement (.slReg wb wd ws) := fun _ _ h => by cases h
theorem SecondWord.mulUU (wb wd : WReg) (sm : Mode) (ws : WReg) :
    SecondWord.Statement (.mulUU wb wd sm ws) := fun _ _ h => by cases h
theorem SecondWord.mulUS (wb wd : WReg) (sm : Mode) (ws : WReg) :
    SecondWord.Statement (.mulUS wb wd sm ws) := fun _ _ h => by cases h
theorem SecondWord.mulSU (wb wd : WReg) (sm : Mode) (ws : WReg) :
    SecondWord.Statement (.mulSU wb wd sm ws) := fun _ _ h => by cases h
theorem SecondWord.mulSS (wb wd : WReg) (sm : Mode) (ws : WReg) :
    SecondWord.Statement (.mulSS wb wd sm ws) := fun _ _ h => by cases h
theorem SecondWord.mulF (sz : Size) (f : BitVec 13) :
    SecondWord.Statement (.mulF sz f) := fun _ _ h => by cases h
theorem SecondWord.mac (m : MulPair) (a : AccId) (xd yd : DspReg) (x y : Option PreAccess) (awb : WriteBack) :
    SecondWord.Statement (.mac m a xd yd x y awb) := fun _ _ h => by cases h
theorem SecondWord.macSquare (m : DspReg) (a : AccId) (xd yd : DspReg) (x y : Option PreAccess) :
    SecondWord.Statement (.macSquare m a xd yd x y) := fun _ _ h => by cases h
theorem SecondWord.msc (m : MulPair) (a : AccId) (xd yd : DspReg) (x y : Option PreAccess) (awb : WriteBack) :
    SecondWord.Statement (.msc m a xd yd x y awb) := fun _ _ h => by cases h
theorem SecondWord.mpy (m : MulPair) (a : AccId) (xd yd : DspReg) (x y : Option PreAccess) :
    SecondWord.Statement (.mpy m a xd yd x y) := fun _ _ h => by cases h
theorem SecondWord.mpySquare (m : DspReg) (a : AccId) (xd yd : DspReg) (x y : Option PreAccess) :
    SecondWord.Statement (.mpySquare m a xd yd x y) := fun _ _ h => by cases h
theorem SecondWord.mpyN (m : MulPair) (a : AccId) (xd yd : DspReg) (x y : Option PreAccess) :
    SecondWord.Statement (.mpyN m a xd yd x y) := fun _ _ h => by cases h
theorem SecondWord.ed (m : DspReg) (a : AccId) (xd : DspReg) (x y : PreAccess) :
    SecondWord.Statement (.ed m a xd x y) := fun _ _ h => by cases h
theorem SecondWord.edac (m : DspReg) (a : AccId) (xd : DspReg) (x y : PreAccess) :
    SecondWord.Statement (.edac m a xd x y) := fun _ _ h => by cases h
theorem SecondWord.addAcc (a : AccId) :
    SecondWord.Statement (.addAcc a) := fun _ _ h => by cases h
theorem SecondWord.addWsAcc (a : AccId) (wb : WReg) (sh : BitVec 4) (sm : MovMode) (ws : WReg) :
    SecondWord.Statement (.addWsAcc a wb sh sm ws) := fun _ _ h => by cases h
theorem SecondWord.lac (a : AccId) (wb : WReg) (sh : BitVec 4) (sm : MovMode) (ws : WReg) :
    SecondWord.Statement (.lac a wb sh sm ws) := fun _ _ h => by cases h
theorem SecondWord.sac (a : AccId) (wb : WReg) (sh : BitVec 4) (dm : MovMode) (wd : WReg) :
    SecondWord.Statement (.sac a wb sh dm wd) := fun _ _ h => by cases h
theorem SecondWord.sacR (a : AccId) (wb : WReg) (sh : BitVec 4) (dm : MovMode) (wd : WReg) :
    SecondWord.Statement (.sacR a wb sh dm wd) := fun _ _ h => by cases h
theorem SecondWord.sftacLit (a : AccId) (lit : BitVec 6) :
    SecondWord.Statement (.sftacLit a lit) := fun _ _ h => by cases h
theorem SecondWord.sftacReg (a : AccId) (wb : WReg) :
    SecondWord.Statement (.sftacReg a wb) := fun _ _ h => by cases h
theorem SecondWord.divSW (t v wn : WReg) :
    SecondWord.Statement (.divSW t v wn) := fun _ _ h => by cases h
theorem SecondWord.divSD (t v wn : WReg) :
    SecondWord.Statement (.divSD t v wn) := fun _ _ h => by cases h
theorem SecondWord.divUW (t v wn : WReg) :
    SecondWord.Statement (.divUW t v wn) := fun _ _ h => by cases h
theorem SecondWord.divUD (t v wn : WReg) :
    SecondWord.Statement (.divUD t v wn) := fun _ _ h => by cases h
theorem SecondWord.divF (wm wn : WReg) :
    SecondWord.Statement (.divF wm wn) := fun _ _ h => by cases h
theorem SecondWord.call (n1 : BitVec 15) (n2 : BitVec 7) : SecondWord.Statement (.call n1 n2) := by
  intro v w2 h
  cases h
  exact decode_nop (field_place_off _ _ _ _ (by omega)) w2
theorem SecondWord.rcall (n : BitVec 16) :
    SecondWord.Statement (.rcall n) := fun _ _ h => by cases h
theorem SecondWord.goto (n1 : BitVec 15) (n2 : BitVec 7) : SecondWord.Statement (.goto n1 n2) := by
  intro v w2 h
  cases h
  exact decode_nop (field_place_off _ _ _ _ (by omega)) w2
theorem SecondWord.bra (n : BitVec 16) :
    SecondWord.Statement (.bra n) := fun _ _ h => by cases h
theorem SecondWord.ret :
    SecondWord.Statement (.ret) := fun _ _ h => by cases h
theorem SecondWord.retlw (sz : Size) (lit : BitVec 10) (wd : WReg) :
    SecondWord.Statement (.retlw sz lit wd) := fun _ _ h => by cases h
theorem SecondWord.retfie :
    SecondWord.Statement (.retfie) := fun _ _ h => by cases h
theorem SecondWord.nop :
    SecondWord.Statement (.nop) := fun _ _ h => by cases h
theorem SecondWord.repeatLit (lit : BitVec 14) :
    SecondWord.Statement (.repeatLit lit) := fun _ _ h => by cases h
theorem SecondWord.repeatReg (wn : WReg) :
    SecondWord.Statement (.repeatReg wn) := fun _ _ h => by cases h
theorem SecondWord.doLit (lit : BitVec 14) (n : BitVec 16) : SecondWord.Statement (.doLit lit n) := by
  intro v w2 h
  cases h
  exact decode_nop (field_place_off _ _ _ _ (by omega)) w2
theorem SecondWord.doReg (wn : WReg) (n : BitVec 16) : SecondWord.Statement (.doReg wn n) := by
  intro v w2 h
  cases h
  exact decode_nop (field_place_off _ _ _ _ (by omega)) w2
theorem SecondWord.disi (lit : BitVec 14) :
    SecondWord.Statement (.disi lit) := fun _ _ h => by cases h
theorem SecondWord.pwrsv (lit : BitVec 1) :
    SecondWord.Statement (.pwrsv lit) := fun _ _ h => by cases h
theorem SecondWord.reset :
    SecondWord.Statement (.reset) := fun _ _ h => by cases h
theorem SecondWord.tblrdl (sz : Size) (dm : Mode) (wd : WReg) (sm : Mode) (ws : WReg) :
    SecondWord.Statement (.tblrdl sz dm wd sm ws) := fun _ _ h => by cases h
theorem SecondWord.tblrdh (sz : Size) (dm : Mode) (wd : WReg) (sm : Mode) (ws : WReg) :
    SecondWord.Statement (.tblrdh sz dm wd sm ws) := fun _ _ h => by cases h
theorem SecondWord.tblwtl (sz : Size) (dm : Mode) (wd : WReg) (sm : Mode) (ws : WReg) :
    SecondWord.Statement (.tblwtl sz dm wd sm ws) := fun _ _ h => by cases h
theorem SecondWord.tblwth (sz : Size) (dm : Mode) (wd : WReg) (sm : Mode) (ws : WReg) :
    SecondWord.Statement (.tblwth sz dm wd sm ws) := fun _ _ h => by cases h

end Sys2Proof.Laws
end

