-- ==== Sys2Proof/Laws/Sequencer.lean ====
section
/-! SUPPORT. What the rules of the step around an instruction do, said once. -/

namespace Sys2Proof.Machine

/-- An instruction that may not end a DO loop either stands at no loop end or is refused (R380). -/
theorem doRule_forbidden (i : Instr) (s t : State) (hi : forbiddenLast i = true) :
    doRule i s t = .ok t ∨ doRule i s t = .error .doLast := by
  unfold doRule lastCheck
  cases h : (atLoopEnd s s.pc || atLoopEnd t s.pc) with
  | false => left; simp
  | true => right; simp [hi]

/-- The countdown changes DISICNT and the count of free values, nothing else (R400). -/
theorem countDisi_like (i : Instr) (s t u : State) :
    countDisi i s t u
      = { u with disicnt := (countDisi i s t u).disicnt, draws := (countDisi i s t u).draws } := by
  unfold countDisi
  split
  · rfl
  · split <;> rfl

/-- The REPEAT rule of an instruction other than REPEAT: one iteration less, the loop over, or no loop
(R364). -/
theorem repeatRule_plain {i : Instr} (s t : State) (hi : isRepeat i = false) :
    repeatRule i s t =
      if s.sr.ra = false then { t with rptFresh := false }
      else if t.rcount = 0#14 then { t with rptFresh := false, sr := { t.sr with ra := false } }
      else { t with rptFresh := false, rcount := t.rcount - 1#14, pc := s.pc } := by
  have hc : clearFresh i t = { t with rptFresh := false } := by simp [clearFresh, hi]
  unfold repeatRule
  rw [hc, hi]
  cases s.sr.ra <;> simp [setRa]

/-- An entry keeps the REPEAT target in front of which it is made (R80, R300). -/
theorem holdTarget_eq (s : State) :
    holdTarget s = { s with
      rptFresh := false
      targets := if s.rptFresh then s.targets.insert (s.pc, getW 15#4 s) else s.targets } := by
  unfold holdTarget
  split
  · rfl
  · rename_i h
    simp only [Bool.not_eq_true] at h
    rw [← h]

/-- The REPEAT rule does not apply to the step of a REPEAT itself (R362). -/
theorem complete_repeat (i : Instr) (s t u : State) (hr : isRepeat i = true)
    (h : complete i s t = .ok u) :
    u.rcount = t.rcount ∧ u.sr = t.sr ∧ u.rptFresh = t.rptFresh ∧ u.pc = t.pc := by
  have hi : forbiddenLast i = true := by simp [forbiddenLast, hr]
  have hrr : repeatRule i s t = t := by simp [repeatRule, clearFresh, hr]
  unfold complete at h
  rw [hrr] at h
  cases hc : t.cur.reset with
  | true =>
    simp only [hc, if_true, Except.ok.injEq] at h
    exact h ▸ ⟨rfl, rfl, rfl, rfl⟩
  | false =>
    simp only [hc, Bool.false_eq_true, if_false] at h
    rcases doRule_forbidden i s t hi with h3 | h3 <;> rw [h3] at h
    · simp only [bind, Except.bind] at h
      split at h
      · cases h
      · cases h
        simp only [record]
        rw [countDisi_like]
        exact ⟨rfl, rfl, rfl, rfl⟩
    · cases h

end Sys2Proof.Machine
end

