-- ==== Sys2Proof/Tests/Slice0.lean ====
section
/-! SUPPORT. The tests. The words of the decode tests are written out from the encoding strings of
R146; the expected results of the others are the worked examples and vectors of
`95_test_vectors.md`, whose id stands before each, or hand calculation from the rule named there.
The witnesses at the end meet the hypotheses of the obligations, clause by clause. -/

namespace Sys2Proof.Machine

/-! ## WellFormed: an ill-formed term for each check -/

theorem test_wf_mov_offset : (Instr.movWsWd .word 1#4 (.plain .direct) 2#4 .offset 3#4).wf = false := by
  decide

theorem test_wf_mov_offset_dest :
    (Instr.movWsWd .word 1#4 .offset 2#4 (.plain .direct) 3#4).wf = false := by decide

theorem test_wf_movd_load_odd : (Instr.movdLoad 1#3 .direct 5#4).wf = false := by decide

theorem test_wf_movd_store_odd : (Instr.movdStore .direct 5#4 1#3).wf = false := by decide

theorem test_wf_mul_odd :
    (Instr.mulUU 0#4 3#4 .direct 1#4).wf = false ∧ (Instr.mulUS 0#4 3#4 .direct 1#4).wf = false
      ∧ (Instr.mulSU 0#4 3#4 .direct 1#4).wf = false
      ∧ (Instr.mulSS 0#4 3#4 .direct 1#4).wf = false := by decide

theorem test_wf_prefetch_twice :
    (Instr.mac .w4w5 .accA .w6 .w6 (some .offset) (some .offset) .none).wf = false
      ∧ (Instr.msc .w4w5 .accA .w6 .w6 (some .offset) (some .offset) .none).wf = false := by decide

theorem test_wf_prefetch_absent :
    (Instr.mpy .w4w5 .accA .w6 .w4 none none).wf = false
      ∧ (Instr.mpyN .w4w5 .accA .w4 .w6 none none).wf = false
      ∧ (Instr.macSquare .w4 .accA .w6 .w4 none none).wf = false
      ∧ (Instr.mpySquare .w4 .accA .w4 .w6 none none).wf = false := by decide

theorem test_wf_acc_offset :
    (Instr.addWsAcc .accA 1#4 0#4 .offset 2#4).wf = false
      ∧ (Instr.lac .accA 1#4 0#4 .offset 2#4).wf = false
      ∧ (Instr.sac .accA 1#4 0#4 .offset 2#4).wf = false
      ∧ (Instr.sacR .accA 1#4 0#4 .offset 2#4).wf = false := by decide

theorem test_wf_divisor :
    (Instr.divSW 0#4 4#4 0#4).wf = false ∧ (Instr.divUW 0#4 4#4 1#4).wf = false
      ∧ (Instr.divSD 5#4 4#4 0#4).wf = false ∧ (Instr.divUD 5#4 4#4 1#4).wf = false
      ∧ (Instr.divF 4#4 0#4).wf = false := by decide

theorem test_wf_dividend :
    (Instr.divSW 1#4 4#4 3#4).wf = false ∧ (Instr.divUW 1#4 4#4 3#4).wf = false
      ∧ (Instr.divSD 6#4 5#4 3#4).wf = false ∧ (Instr.divUD 4#4 4#4 3#4).wf = false := by decide

theorem test_wf_retlw_w15 : (Instr.retlw .word 1#10 15#4).wf = false := by decide

theorem test_wf_do_length :
    (Instr.doLit 33#14 0#16).wf = false ∧ (Instr.doLit 33#14 0xFFFF#16).wf = false
      ∧ (Instr.doReg 3#4 0xFFFE#16).wf = false := by decide

/-! ## Decode: one word for each constructor, written out from its string of R146 -/

/-- `0111 1www wBhh hddd dggg ssss` -/
theorem test_word_mov_ws_wd : decode 0x7CD9C6#24 none
    = .ok (.movWsWd .byte 9#4 (.plain .postInc) 3#4 (.plain .preDec) 6#4) := by decide

/-- `0111 1www wBhh hddd dggg ssss` -/
theorem test_word_mov_offset : decode 0x7CB196#24 none
    = .ok (.movWsWd .word 9#4 .offset 3#4 (.plain .ind) 6#4) := by decide

/-- `1000 0fff ffff ffff ffff dddd` -/
theorem test_word_mov_f_wnd : decode 0x80002A#24 none
    = .ok (.movFWnd 2#15 10#4) := by decide

/-- `1011 0111 1B1f ffff ffff ffff` -/
theorem test_word_mov_wreg_f : decode 0xB7E900#24 none
    = .ok (.movWregF .byte 0x900#13) := by decide

/-- `0010 kkkk kkkk kkkk kkkk dddd` -/
theorem test_word_mov_lit : decode 0x2ABCD7#24 none
    = .ok (.movLit16Wnd 0xABCD#16 7#4) := by decide

/-- `1011 1110 0000 0ddd 0ppp ssss` -/
theorem test_word_movd_load : decode 0xBE0239#24 none
    = .ok (.movdLoad 2#3 .postInc 9#4) := by decide

/-- `1011 1110 10qq qddd d000 sss0` -/
theorem test_word_movd_store : decode 0xBEA486#24 none
    = .ok (.movdStore .preDec 9#4 3#3) := by decide

/-- `1111 1110 1010 0000 0000 0000` -/
theorem test_word_push_s : decode 0xFEA000#24 none
    = .ok (.pushS) := by decide

/-- `1111 1110 1000 0000 0000 0000` -/
theorem test_word_pop_s : decode 0xFE8000#24 none
    = .ok (.popS) := by decide

/-- `1111 1010 00kk kkkk kkkk kkk0` -/
theorem test_word_lnk : decode 0xFA2468#24 none
    = .ok (.lnk 0x1234#13) := by decide

/-- `1111 1010 1000 0000 0000 0000` -/
theorem test_word_ulnk : decode 0xFA8000#24 none
    = .ok (.ulnk) := by decide

/-- `1111 1011 0000 0ddd dppp ssss` -/
theorem test_word_se : decode 0xFB029C#24 none
    = .ok (.se 5#4 .ind 12#4) := by decide

/-- `1111 1011 1000 0ddd dppp ssss` -/
theorem test_word_ze : decode 0xFB82AC#24 none
    = .ok (.ze 5#4 .postDec 12#4) := by decide

/-- `0100 0www wBqq qddd dppp ssss` -/
theorem test_word_add : decode 0x452A99#24 none
    = .ok (.addWbWsWd .word 10#4 .preInc 5#4 .ind 9#4) := by decide

/-- `1011 0100 0BDf ffff ffff ffff` -/
theorem test_word_add_f : decode 0xB45100#24 none
    = .ok (.addF .byte .wreg 0x1100#13) := by decide

/-- `1010 1000 bbbf ffff ffff fffb` -/
theorem test_word_bset : decode 0xA84903#24 none
    = .ok (.bset 10#4 0x481#12) := by decide

/-- `1010 1111 bbbf ffff ffff fffb` -/
theorem test_word_btsc : decode 0xAF4903#24 none
    = .ok (.btsc 10#4 0x481#12) := by decide

/-- `1101 1110 1www wddd d100 kkkk` -/
theorem test_word_asr_lit : decode 0xDECB4D#24 none
    = .ok (.asrLit 9#4 6#4 13#4) := by decide

/-- `1101 1110 1www wddd d000 ssss` -/
theorem test_word_asr_reg : decode 0xDECB0D#24 none
    = .ok (.asrReg 9#4 6#4 13#4) := by decide

/-- `1101 1110 0www wddd d100 kkkk` -/
theorem test_word_lsr_lit : decode 0xDE4B4D#24 none
    = .ok (.lsrLit 9#4 6#4 13#4) := by decide

/-- `1101 1110 0www wddd d000 ssss` -/
theorem test_word_lsr_reg : decode 0xDE4B0D#24 none
    = .ok (.lsrReg 9#4 6#4 13#4) := by decide

/-- `1101 1101 0www wddd d100 kkkk` -/
theorem test_word_sl_lit : decode 0xDD4B4D#24 none
    = .ok (.slLit 9#4 6#4 13#4) := by decide

/-- `1101 1101 0www wddd d000 ssss` -/
theorem test_word_sl_reg : decode 0xDD4B0D#24 none
    = .ok (.slReg 9#4 6#4 13#4) := by decide

/-- `1011 1000 0www wddd dppp ssss` -/
theorem test_word_mul_uu : decode 0xB84B5D#24 none
    = .ok (.mulUU 9#4 6#4 .preInc 13#4) := by decide

/-- `1011 1000 1www wddd dppp ssss` -/
theorem test_word_mul_us : decode 0xB8CB5D#24 none
    = .ok (.mulUS 9#4 6#4 .preInc 13#4) := by decide

/-- `1011 1001 0www wddd dppp ssss` -/
theorem test_word_mul_su : decode 0xB94B5D#24 none
    = .ok (.mulSU 9#4 6#4 .preInc 13#4) := by decide

/-- `1011 1001 1www wddd dppp ssss` -/
theorem test_word_mul_ss : decode 0xB9CB5D#24 none
    = .ok (.mulSS 9#4 6#4 .preInc 13#4) := by decide

/-- `1011 1100 0B0f ffff ffff ffff` -/
theorem test_word_mul_f : decode 0xBC5234#24 none
    = .ok (.mulF .byte 0x1234#13) := by decide

/-- `1100 0mmm A0xx yyii iijj jjaa` -/
theorem test_word_mac : decode 0xC59A55#24 none
    = .ok (.mac .w5w7 .accB .w5 .w6 (some (.modify .upper .plus2)) (some (.modify .lower .minus6)) .w13Inc) := by decide

/-- `1111 00mm A0xx yyii iijj jj00` -/
theorem test_word_mac_square : decode 0xF29A54#24 none
    = .ok (.macSquare .w6 .accB .w5 .w6 (some (.modify .upper .plus2)) (some (.modify .lower .minus6))) := by decide

/-- `1100 0mmm A1xx yyii iijj jjaa` -/
theorem test_word_msc : decode 0xC6DA56#24 none
    = .ok (.msc .w6w7 .accB .w5 .w6 (some (.modify .upper .plus2)) (some (.modify .lower .minus6)) .none) := by decide

/-- `1100 0mmm A0xx yyii iijj jj11` -/
theorem test_word_mpy : decode 0xC19A57#24 none
    = .ok (.mpy .w4w6 .accB .w5 .w6 (some (.modify .upper .plus2)) (some (.modify .lower .minus6))) := by decide

/-- `1111 00mm A0xx yyii iijj jj01` -/
theorem test_word_mpy_square : decode 0xF39A55#24 none
    = .ok (.mpySquare .w7 .accB .w5 .w6 (some (.modify .upper .plus2)) (some (.modify .lower .minus6))) := by decide

/-- `1100 0mmm A1xx yyii iijj jj11` -/
theorem test_word_mpy_n : decode 0xC2C133#24 none
    = .ok (.mpyN .w4w7 .accB .w4 .w4 none (some .offset)) := by decide

/-- `1111 00mm A1xx 00ii iijj jj11` -/
theorem test_word_ed : decode 0xF1733F#24 none
    = .ok (.ed .w5 .accA .w7 .offset (.modify .upper .minus2)) := by decide

/-- `1111 00mm A1xx 00ii iijj jj10` -/
theorem test_word_edac : decode 0xF170A2#24 none
    = .ok (.edac .w5 .accA .w7 (.modify .lower .plus4) (.modify .upper .zero)) := by decide

/-- `1100 1011 A000 0000 0000 0000` -/
theorem test_word_add_acc : decode 0xCB8000#24 none
    = .ok (.addAcc .accB) := by decide

/-- `1100 1001 Awww wrrr rggg ssss` -/
theorem test_word_add_ws_acc : decode 0xC9CF36#24 none
    = .ok (.addWsAcc .accB 9#4 0xE#4 (.plain .postInc) 6#4) := by decide

/-- `1100 1010 Awww wrrr rggg ssss` -/
theorem test_word_lac : decode 0xCA4BE6#24 none
    = .ok (.lac .accA 9#4 7#4 .offset 6#4) := by decide

/-- `1100 1100 Awww wrrr rhhh dddd` -/
theorem test_word_sac : decode 0xCCCF96#24 none
    = .ok (.sac .accB 9#4 0xF#4 (.plain .ind) 6#4) := by decide

/-- `1100 1101 Awww wrrr rhhh dddd` -/
theorem test_word_sac_r : decode 0xCD49C6#24 none
    = .ok (.sacR .accA 9#4 3#4 (.plain .preDec) 6#4) := by decide

/-- `1100 1000 A000 0000 01kk kkkk` -/
theorem test_word_sftac_lit : decode 0xC88078#24 none
    = .ok (.sftacLit .accB 0x38#6) := by decide

/-- `1100 1000 A000 0000 0000 ssss` -/
theorem test_word_sftac_reg : decode 0xC8800B#24 none
    = .ok (.sftacReg .accB 11#4) := by decide

/-- `1101 1000 0ttt tvvv v000 ssss` -/
theorem test_word_div_sw : decode 0xD80303#24 none
    = .ok (.divSW 0#4 6#4 3#4) := by decide

/-- `1101 1000 0ttt tvvv v100 ssss` -/
theorem test_word_div_sd : decode 0xD82A43#24 none
    = .ok (.divSD 5#4 4#4 3#4) := by decide

/-- `1101 1000 1ttt tvvv v000 ssss` -/
theorem test_word_div_uw : decode 0xD88303#24 none
    = .ok (.divUW 0#4 6#4 3#4) := by decide

/-- `1101 1000 1ttt tvvv v100 ssss` -/
theorem test_word_div_ud : decode 0xD8CC43#24 none
    = .ok (.divUD 9#4 8#4 3#4) := by decide

/-- `1101 1001 0ttt t000 0000 ssss` -/
theorem test_word_divf : decode 0xD92005#24 none
    = .ok (.divF 4#4 5#4) := by decide

/-- `0000 0010 nnnn nnnn nnnn nnn0` -/
theorem test_word_call : decode 0x028642#24 (some 0x000035#24)
    = .ok (.call 0x4321#15 0x35#7) := by decide

/-- `0000 0111 nnnn nnnn nnnn nnnn` -/
theorem test_word_rcall : decode 0x07FFF0#24 none
    = .ok (.rcall 0xFFF0#16) := by decide

/-- `0000 0100 nnnn nnnn nnnn nnn0` -/
theorem test_word_goto : decode 0x048642#24 (some 0x000035#24)
    = .ok (.goto 0x4321#15 0x35#7) := by decide

/-- `0011 0111 nnnn nnnn nnnn nnnn` -/
theorem test_word_bra : decode 0x378001#24 none
    = .ok (.bra 0x8001#16) := by decide

/-- `0000 0110 0000 0000 0000 0000` -/
theorem test_word_return : decode 0x060000#24 none
    = .ok (.ret) := by decide

/-- `0000 0101 0Bkk kkkk kkkk dddd` -/
theorem test_word_retlw : decode 0x056A59#24 none
    = .ok (.retlw .byte 0x2A5#10 9#4) := by decide

/-- `0000 0110 0100 0000 0000 0000` -/
theorem test_word_retfie : decode 0x064000#24 none
    = .ok (.retfie) := by decide

/-- `0000 0000 xxxx xxxx xxxx xxxx` -/
theorem test_word_nop : decode 0x00FFFF#24 none
    = .ok (.nop) := by decide

/-- `0000 1001 00kk kkkk kkkk kkkk` -/
theorem test_word_repeat_lit : decode 0x092345#24 none
    = .ok (.repeatLit 0x2345#14) := by decide

/-- `0000 1001 1000 0000 0000 ssss` -/
theorem test_word_repeat_reg : decode 0x09800B#24 none
    = .ok (.repeatReg 11#4) := by decide

/-- `0000 1000 00kk kkkk kkkk kkkk` -/
theorem test_word_do_lit : decode 0x082345#24 (some 0x00FFE0#24)
    = .ok (.doLit 0x2345#14 0xFFE0#16) := by decide

/-- `0000 1000 1000 0000 0000 ssss` -/
theorem test_word_do_reg : decode 0x08800B#24 (some 0x000123#24)
    = .ok (.doReg 11#4 0x0123#16) := by decide

/-- `1111 1100 00kk kkkk kkkk kkkk` -/
theorem test_word_disi : decode 0xFC2345#24 none
    = .ok (.disi 0x2345#14) := by decide

/-- `1111 1110 0100 0000 0000 000k` -/
theorem test_word_pwrsv : decode 0xFE4001#24 none
    = .ok (.pwrsv 1#1) := by decide

/-- `1111 1110 0000 0000 0000 0000` -/
theorem test_word_reset : decode 0xFE0000#24 none
    = .ok (.reset) := by decide

/-- `1011 1010 0Bqq qddd dppp ssss` -/
theorem test_word_tblrdl : decode 0xBA5CC6#24 none
    = .ok (.tblrdl .byte .postInc 9#4 .preDec 6#4) := by decide

/-- `1011 1010 1Bqq qddd dppp ssss` -/
theorem test_word_tblrdh : decode 0xBADCC6#24 none
    = .ok (.tblrdh .byte .postInc 9#4 .preDec 6#4) := by decide

/-- `1011 1011 0Bqq qddd dppp ssss` -/
theorem test_word_tblwtl : decode 0xBB5CC6#24 none
    = .ok (.tblwtl .byte .postInc 9#4 .preDec 6#4) := by decide

/-- `1011 1011 1Bqq qddd dppp ssss` -/
theorem test_word_tblwth : decode 0xBBDCC6#24 none
    = .ok (.tblwth .byte .postInc 9#4 .preDec 6#4) := by decide

/-! ## Decode: words that are no instruction (R148) -/

theorem test_word_no_row : decode 0x010000#24 none = .error .noSuchInstruction := by decide

theorem test_word_nopr : decode 0xFF0000#24 none = .error .noSuchInstruction := by decide

theorem test_word_reserved_mode : decode 0x41826F#24 none = .error .reservedMode := by decide

theorem test_word_reserved_pair : decode 0xC30113#24 none = .error .reservedMultiplierPair := by
  decide

theorem test_word_missing_prefetch : decode 0xF04113#24 none = .error .missingPrefetch := by decide

theorem test_word_missing_second : decode 0x020200#24 none = .error .secondWordMissing := by decide

theorem test_word_bad_second : decode 0x020200#24 (some 0x000080#24) = .error .badSecondWord := by
  decide

/-- The second word of a CALL executes as a NOP (V44.10, R131). -/
theorem test_word_second : decode 0x000035#24 none = .ok .nop := by decide

/-- The interface's form: the second word counts on from bit 24. -/
theorem test_table_word : decodeTableWord 48 0x000001020200 = some (.call 0x100#15 1#7) := by decide

/-! ## Small states -/

/-- The state after reset, at 0x000100, with every register marked initialised. -/
def ready : State := { State.reset with pc := 0x100#23, winit := Vector.replicate 15 true }

/-- Wn set to `v`. -/
def wN (n : WReg) (v : Word) (s : State) : State := putW n v s

/-- The word of storage at `a` set to `v`. -/
def memN (a v : Word) (s : State) : State := storageWrite .word a v s

/-- The word of storage at `a`. -/
def wordAt (a : Word) (s : State) : Word := storageRead .word a s

/-- `i` at `s` gives a next state of which `p` holds. -/
def gives (i : Instr) (s : State) (p : State → Bool) : Bool :=
  match exec i s with
  | .next t => p t
  | .fault _ | .refused _ => false

/-- The step that runs `i` at `s` gives a next state of which `p` holds. -/
def runs (i : Instr) (s : State) (p : State → Bool) : Bool :=
  match runInstr i (openBoundary s) with
  | .next t => p t
  | .fault _ | .refused _ => false

/-- A data write of a word or byte at `s` gives a state of which `p` holds. -/
def stores (sz : Size) (a v : Word) (s : State) (p : State → Bool) : Bool :=
  match memWrite sz a v s with
  | .ok t => p t
  | .error _ => false

/-- A data read at `s` gives `v`. -/
def loads (sz : Size) (a v : Word) (s : State) : Bool :=
  match memRead sz a s with
  | .ok r => r.1 == v
  | .error _ => false

/-- Integer mode: CORCON's IF set (V42). -/
def integer (s : State) : State := { s with corcon := { s.corcon with intMode := true } }

/-! ## Registers in data space -/

/-- V10.2 -/
theorem test_byte_write_w : stores .byte 7#16 0xAB#16 (wN 3#4 0x1234#16 State.reset)
    (fun t => getW 3#4 t == 0xAB34#16 && !isInit 3#4 t) = true := by decide

/-- V10.3 -/
theorem test_write_w15 : stores .word 0x001E#16 0x0901#16 State.reset
    (fun t => getW 15#4 t == 0x0900#16) = true := by decide

/-- V10.4 -/
theorem test_write_sr : stores .word 0x0042#16 0xFFFF#16 State.reset
    (fun t => srWord t == 0x01EF#16) = true := by decide

/-- V10.5 -/
theorem test_write_sr_clears_sa :
    stores .word 0x0042#16 0#16 { ready with sr := { ready.sr with sa := true, sb := true } }
      (fun t => srWord t == 0#16) = true := by decide

/-- V10.7, outside a DO loop: no request is made. -/
theorem test_write_corcon : stores .word 0x0044#16 0xFFFF#16 State.reset
    (fun t => corconWord t == 0x10F7#16 && t.edt == .none) = true := by decide

/-- V10.9 -/
theorem test_write_splim : stores .word 0x0020#16 0x1FFF#16 State.reset
    (fun t => t.splim == 0x1FFE#16 && t.splimEn) = true := by decide

/-- V10.10 -/
theorem test_byte_write_splim : stores .byte 0x0020#16 0xFF#16 State.reset
    (fun t => t.splim == 0x00FE#16 && !t.splimEn) = true := by decide

/-- V10.12 -/
theorem test_write_accau : stores .word 0x0026#16 0x1280#16 State.reset
    (fun t => t.acca == 0x8000000000#40 && loads .word 0x0026#16 0xFF80#16 t) = true := by decide

/-- V20.1 -/
theorem test_byte_order : loads .byte 0x0900#16 0xEF#16 (memN 0x0900#16 0xBEEF#16 ready) = true
    ∧ loads .byte 0x0901#16 0xBE#16 (memN 0x0900#16 0xBEEF#16 ready) = true := by decide

/-- V20.5 -/
theorem test_psv : loads .byte 0x8001#16 0x34#16
    { ready with
      corcon := { ready.corcon with psv := true }, psvpag := 0xAA#8
      prog := [(0x550000, 0x123456#24)] } = true := by decide

/-! ## Move and stack -/

/-- S4: the data write wins over the post-increment. -/
theorem test_mov_self_pointer :
    gives (.movWsWd .word 0#4 (.plain .postInc) 2#4 (.plain .direct) 1#4)
      (wN 1#4 0x1234#16 (wN 2#4 4#16 ready)) (fun t => getW 2#4 t == 0x1234#16) = true := by decide

/-- V40.4 -/
theorem test_mov_byte :
    gives (.movWsWd .byte 0#4 (.plain .direct) 2#4 (.plain .ind) 1#4)
      (memN 0x0900#16 0x1234#16 (wN 1#4 0x0900#16 (wN 2#4 0xFFFF#16 ready)))
      (fun t => getW 2#4 t == 0xFF34#16) = true := by decide

/-- V40.7 -/
theorem test_mov_f : gives (.movFWnd 2#15 10#4) (wN 2#4 0xBEEF#16 State.reset)
    (fun t => getW 10#4 t == 0xBEEF#16 && isInit 10#4 t) = true := by decide

/-- V40.8 -/
theorem test_mov_wreg : gives (.movWregF .word 0x0900#13) (wN 0#4 0x1234#16 ready)
    (fun t => Memory.read t.ram 0x0900 == 0x34#8 && Memory.read t.ram 0x0901 == 0x12#8) = true := by
  decide

/-- V40.9 -/
theorem test_mov_literal : gives (.movLit16Wnd 0xFFFF#16 7#4) State.reset
    (fun t => getW 7#4 t == 0xFFFF#16 && srWord t == 0#16 && t.pc == 2#23) = true := by decide

/-- V40.10 -/
theorem test_movd_load : gives (.movdLoad 2#3 .ind 2#4)
    (memN 0x0902#16 0x2222#16 (memN 0x0900#16 0x1111#16 (wN 2#4 0x0900#16 ready)))
    (fun t => getW 4#4 t == 0x1111#16 && getW 5#4 t == 0x2222#16) = true := by decide

/-- R171 -/
theorem test_movd_store : gives (.movdStore .ind 2#4 2#3)
    (wN 2#4 0x0900#16 (wN 4#4 0x1111#16 (wN 5#4 0x2222#16 ready)))
    (fun t => wordAt 0x0900#16 t == 0x1111#16 && wordAt 0x0902#16 t == 0x2222#16) = true := by decide

/-- V40.14, the save. -/
theorem test_push_s : gives .pushS (wN 3#4 4#16 { ready with sr := { ready.sr with dc := true } })
    (fun t => t.shadow.w3 == 4#16 && t.shadow.dc && !t.shadow.c) = true := by decide

/-- V40.14, the restore. -/
theorem test_pop_s : gives .popS
    { ready with shadow := { w0 := 1#16, w1 := 2#16, w2 := 3#16, w3 := 4#16, n := true, ov := true,
                             z := true, c := true, dc := true } }
    (fun t => getW 0#4 t == 1#16 && getW 3#4 t == 4#16 && srWord t == 0x010F#16) = true := by decide

/-- V40.15 -/
theorem test_lnk : gives (.lnk 2#13) ready
    (fun t => getW 14#4 t == 0x0802#16 && getW 15#4 t == 0x0806#16) = true := by decide

/-- V40.16 -/
theorem test_ulnk : gives .ulnk (wN 14#4 0x0802#16 (wN 15#4 0x0806#16 ready))
    (fun t => getW 15#4 t == 0x0800#16 && getW 14#4 t == 0#16) = true := by decide

/-- V40.17 -/
theorem test_se : gives (.se 2#4 .direct 1#4) (wN 1#4 0x1280#16 ready)
    (fun t => getW 2#4 t == 0xFF80#16 && srWord t == 0x0008#16) = true := by decide

/-- V40.19 -/
theorem test_se_zero : gives (.se 2#4 .direct 1#4) (wN 1#4 0x1200#16 ready)
    (fun t => getW 2#4 t == 0#16 && srWord t == 0x0003#16) = true := by decide

/-- V40.20 -/
theorem test_ze : gives (.ze 2#4 .direct 1#4) (wN 1#4 0x12F0#16 ready)
    (fun t => getW 2#4 t == 0x00F0#16 && srWord t == 0x0001#16) = true := by decide

/-! ## MCU ALU -/

/-- V41.5 -/
theorem test_add_word : gives (.addWbWsWd .word 0#4 .direct 2#4 .direct 1#4)
    (wN 0#4 0x7FFF#16 (wN 1#4 0x7FFF#16 ready))
    (fun t => getW 2#4 t == 0xFFFE#16 && srWord t == 0x010C#16) = true := by decide

/-- V41.12 -/
theorem test_add_byte : gives (.addWbWsWd .byte 0#4 .direct 2#4 .direct 1#4)
    (wN 0#4 0xAA7F#16 (wN 1#4 0xBB01#16 (wN 2#4 0xCCCC#16 ready)))
    (fun t => getW 2#4 t == 0xCC80#16 && srWord t == 0x010C#16) = true := by decide

/-- V41.15 -/
theorem test_add_file : gives (.addF .word .file 0x0900#13)
    (memN 0x0900#16 0xFFFD#16 (wN 0#4 3#16 ready))
    (fun t => wordAt 0x0900#16 t == 0#16 && srWord t == 0x0103#16 && getW 0#4 t == 3#16) = true := by
  decide

/-- V41.16 -/
theorem test_add_wreg : gives (.addF .word .wreg 0x0900#13)
    (memN 0x0900#16 0xFFFD#16 (wN 0#4 3#16 ready))
    (fun t => wordAt 0x0900#16 t == 0xFFFD#16 && getW 0#4 t == 0#16) = true := by decide

/-- V41.17 -/
theorem test_bset : gives (.bset 0#4 0x481#12) (memN 0x0902#16 0x0100#16 ready)
    (fun t => wordAt 0x0902#16 t == 0x0101#16) = true := by decide

/-- V41.18 -/
theorem test_btsc_set : gives (.btsc 1#4 0x021#12) { ready with sr := { ready.sr with z := true } }
    (fun t => t.pc == 0x102#23) = true := by decide

/-- V41.19 -/
theorem test_btsc_clear : gives (.btsc 1#4 0x021#12) ready (fun t => t.pc == 0x104#23) = true := by
  decide

/-- V41.21 -/
theorem test_asr_lit : gives (.asrLit 0#4 1#4 2#4) (wN 0#4 0x8004#16 ready)
    (fun t => getW 1#4 t == 0xE001#16 && srWord t == 0x0008#16) = true := by decide

/-- V41.22, the amount in a register. -/
theorem test_asr_reg : gives (.asrReg 0#4 1#4 2#4) (wN 2#4 15#16 (wN 0#4 0x8004#16 ready))
    (fun t => getW 1#4 t == 0xFFFF#16) = true := by decide

/-- V41.23 -/
theorem test_lsr_lit : gives (.lsrLit 0#4 1#4 2#4) (wN 0#4 0x8004#16 ready)
    (fun t => getW 1#4 t == 0x2001#16 && srWord t == 0#16) = true := by decide

/-- V41.23, the amount in a register. -/
theorem test_lsr_reg : gives (.lsrReg 0#4 1#4 2#4) (wN 2#4 2#16 (wN 0#4 0x8004#16 ready))
    (fun t => getW 1#4 t == 0x2001#16) = true := by decide

/-- V41.25 -/
theorem test_sl_lit : gives (.slLit 0#4 1#4 15#4) (wN 0#4 0x8004#16 ready)
    (fun t => getW 1#4 t == 0#16 && srWord t == 0x0002#16) = true := by decide

/-- V41.24, the amount in a register. -/
theorem test_sl_reg : gives (.slReg 0#4 1#4 2#4) (wN 2#4 2#16 (wN 0#4 0x8004#16 ready))
    (fun t => getW 1#4 t == 0x0010#16) = true := by decide

/-- V41.26 -/
theorem test_sl_amount : exec (.slReg 0#4 1#4 2#4) (wN 2#4 16#16 ready) = .refused .shiftAmount := by
  rfl

/-- V41.27 -/
theorem test_mul_uu : gives (.mulUU 0#4 2#4 .direct 1#4)
    (wN 0#4 0xFFFF#16 (wN 1#4 0xFFFF#16 ready))
    (fun t => getW 3#4 t == 0xFFFE#16 && getW 2#4 t == 1#16) = true := by decide

/-- V41.29 -/
theorem test_mul_ss : gives (.mulSS 0#4 2#4 .direct 1#4)
    (wN 0#4 0x8000#16 (wN 1#4 0x8000#16 ready))
    (fun t => getW 3#4 t == 0x4000#16 && getW 2#4 t == 0#16) = true := by decide

/-- V41.30, with W1 = 2: -1 by 2. -/
theorem test_mul_su : gives (.mulSU 0#4 2#4 .direct 1#4) (wN 0#4 0xFFFF#16 (wN 1#4 2#16 ready))
    (fun t => getW 3#4 t == 0xFFFF#16 && getW 2#4 t == 0xFFFE#16) = true := by decide

/-- V41.31, with W0 = 2: 2 by -1. -/
theorem test_mul_us : gives (.mulUS 0#4 2#4 .direct 1#4) (wN 0#4 2#16 (wN 1#4 0xFFFF#16 ready))
    (fun t => getW 3#4 t == 0xFFFF#16 && getW 2#4 t == 0xFFFE#16) = true := by decide

/-- R234, word mode: 65535 by 65535 as in V41.27. -/
theorem test_mul_f : gives (.mulF .word 0x0900#13)
    (memN 0x0900#16 0xFFFF#16 (wN 0#4 0xFFFF#16 ready))
    (fun t => getW 3#4 t == 0xFFFE#16 && getW 2#4 t == 1#16) = true := by decide

/-! ## DSP engine -/

/-- V42.3g -/
theorem test_mac : gives (.mac .w4w5 .accA .w4 .w5 (some (.modify .lower .plus2))
      (some (.modify .lower .plus2)) .w13)
    { (memN 0x0900#16 0x1000#16 (memN 0x0A00#16 0x3000#16 (wN 4#4 0x4000#16 (wN 5#4 0x2000#16
      (wN 8#4 0x0900#16 (wN 10#4 0x0A00#16 ready)))))) with accb := 0x0012348000#40 }
    (fun t => t.acca == 0x0010000000#40 && getW 4#4 t == 0x1000#16 && getW 5#4 t == 0x3000#16
      && getW 8#4 t == 0x0902#16 && getW 10#4 t == 0x0A02#16 && getW 13#4 t == 0x1234#16) = true := by
  decide

/-- V42.2e -/
theorem test_mac_overflow : gives (.mac .w4w5 .accA .w4 .w4 none none .none)
    { wN 4#4 0x4000#16 (wN 5#4 0x4000#16 ready) with acca := 0x7FFFFFFFFF#40 }
    (fun t => t.acca == 0x801FFFFFFF#40 && srWord t == 0xAC00#16) = true := by decide

/-- V42.3a -/
theorem test_mac_square : gives (.macSquare .w4 .accB .w4 .w4 none none)
    { integer (wN 4#4 0xFFFE#16 ready) with accb := 1#40 } (fun t => t.accb == 5#40) = true := by
  decide

/-- V42.3b -/
theorem test_msc : gives (.msc .w4w5 .accA .w4 .w4 none none .none)
    { integer (wN 4#4 3#16 (wN 5#4 4#16 ready)) with acca := 10#40 }
    (fun t => t.acca == 0xFFFFFFFFFE#40 && srWord t == 0#16) = true := by decide

/-- V42.3c -/
theorem test_mpy : gives (.mpy .w4w6 .accA .w4 .w4 none none)
    (wN 4#4 0x4000#16 (wN 6#4 0xC000#16 ready)) (fun t => t.acca == 0xFFE0000000#40) = true := by
  decide

/-- V42.1d -/
theorem test_mpy_square : gives (.mpySquare .w5 .accA .w4 .w4 none none)
    (integer (wN 5#4 0x7FFF#16 ready)) (fun t => t.acca == 0x003FFF0001#40) = true := by decide

/-- V42.3d -/
theorem test_mpy_n : gives (.mpyN .w4w5 .accB .w4 .w4 none none)
    (integer (wN 4#4 3#16 (wN 5#4 4#16 ready))) (fun t => t.accb == 0xFFFFFFFFF4#40) = true := by
  decide

/-- V42.3e -/
theorem test_ed : gives (.ed .w4 .accA .w4 (.modify .lower .zero) (.modify .lower .zero))
    (integer (memN 0x0900#16 10#16 (memN 0x0A00#16 4#16 (wN 4#4 3#16 (wN 8#4 0x0900#16
      (wN 10#4 0x0A00#16 ready))))))
    (fun t => t.acca == 9#40 && getW 4#4 t == 6#16) = true := by decide

/-- V42.3f -/
theorem test_edac : gives (.edac .w4 .accA .w4 (.modify .lower .zero) (.modify .lower .zero))
    { integer (memN 0x0900#16 1#16 (memN 0x0A00#16 3#16 (wN 4#4 6#16 (wN 8#4 0x0900#16
      (wN 10#4 0x0A00#16 ready))))) with acca := 9#40 }
    (fun t => t.acca == 0x2D#40 && getW 4#4 t == 0xFFFE#16) = true := by decide

/-- V42.3i -/
theorem test_add_acc : gives (.addAcc .accA) { ready with acca := 0x7FFFFFFFFF#40, accb := 1#40 }
    (fun t => t.acca == 0x8000000000#40 && t.sr.oa && t.sr.sa) = true := by decide

/-- V42.3j -/
theorem test_add_ws_acc : gives (.addWsAcc .accA 0#4 1#4 (.plain .direct) 0#4)
    { wN 0#4 2#16 ready with acca := 0x0000010000#40 } (fun t => t.acca == 0x0000020000#40) = true := by
  decide

/-- V42.3l -/
theorem test_lac_left : gives (.lac .accA 0#4 0xE#4 (.plain .direct) 0#4) (wN 0#4 0x4000#16 ready)
    (fun t => t.acca == 0x0100000000#40 && t.sr.oa) = true := by decide

/-- V42.3m -/
theorem test_lac_right : gives (.lac .accB 0#4 4#4 (.plain .direct) 0#4) (wN 0#4 0x7FFF#16 ready)
    (fun t => t.accb == 0x0007FFF000#40) = true := by decide

/-- V42.5a -/
theorem test_sac : gives (.sac .accA 0#4 4#4 (.plain .direct) 0#4)
    { ready with acca := 0x0012345678#40 } (fun t => getW 0#4 t == 0x0123#16) = true := by decide

/-- V42.5b -/
theorem test_sac_saturates : gives (.sac .accA 0#4 0xC#4 (.plain .direct) 0#4)
    { ready with acca := 0x0012345678#40 } (fun t => getW 0#4 t == 0x7FFF#16) = true := by decide

/-- V42.4b, RND = 0 -/
theorem test_sac_r_convergent : gives (.sacR .accA 0#4 0#4 (.plain .direct) 0#4)
    { ready with acca := 0x0012358000#40 } (fun t => getW 0#4 t == 0x1236#16) = true := by decide

/-- V42.4a, RND = 1 -/
theorem test_sac_r_conventional : gives (.sacR .accA 0#4 0#4 (.plain .direct) 0#4)
    { ready with acca := 0x0012348000#40, corcon := { ready.corcon with rnd := true } }
    (fun t => getW 0#4 t == 0x1235#16) = true := by decide

/-- V42.5d -/
theorem test_sftac : gives (.sftacLit .accA 4#6) { ready with acca := 0x0012345678#40 }
    (fun t => t.acca == 0x0001234567#40) = true := by decide

/-- V42.5g -/
theorem test_sftac_trap : gives (.sftacLit .accA 17#6) { ready with acca := 0x0012345678#40 }
    (fun t => t.acca == 0x0012345678#40 && t.arithPending) = true := by decide

/-- V42.5e, the amount in a register. -/
theorem test_sftac_reg : gives (.sftacReg .accA 3#4)
    { wN 3#4 0xFFF8#16 ready with acca := 0x0012345678#40 }
    (fun t => t.acca == 0x1234567800#40 && t.sr.oa) = true := by decide

/-! ## Divide: the first execution's record, and one eighteenth -/

/-- The record of the first execution holds the quotient `q` and the remainder `r`. -/
def starts (i : Instr) (s : State) (q r : Int) : Bool :=
  gives i s fun t => match t.dv with
    | none => false
    | some d => d.q == q && d.r == r && d.ok && d.iter == 1

/-- V43.9 -/
theorem test_div_sw : starts (.divSW 0#4 2#4 3#4) (wN 2#4 0xFFF9#16 (wN 3#4 2#16 ready)) (-3) (-1)
    = true := by decide

/-- V43.3 -/
theorem test_div_sd : starts (.divSD 5#4 4#4 3#4)
    (wN 5#4 0xFFF0#16 (wN 4#4 0xBDC0#16 (wN 3#4 0x012C#16 ready))) (-3333) (-100) = true := by decide

/-- V43.16 -/
theorem test_div_uw : starts (.divUW 0#4 2#4 3#4) (wN 2#4 0xFFF9#16 (wN 3#4 2#16 ready)) 0x7FFC 1
    = true := by decide

/-- V43.6 -/
theorem test_div_ud : starts (.divUD 5#4 4#4 3#4)
    (wN 5#4 0xFFFE#16 (wN 4#4 0xFFFF#16 (wN 3#4 0xFFFF#16 ready))) 0xFFFF 0xFFFE = true := by decide

/-- V43.18 -/
theorem test_divf : starts (.divF 4#4 5#4) (wN 4#4 0xE000#16 (wN 5#4 0x4000#16 ready)) (-0x4000) 0
    = true := by decide

/-- A state before the eighteenth execution of V43.2. -/
def seventeenth : State :=
  { wN 0#4 0xAAAA#16 (wN 1#4 0xBBBB#16 (wN 3#4 2#16 ready)) with
    sr := { ready.sr with ra := true }
    dv := some { pc0 := 0x100#23, iter := 17, q := -3, r := -1, ok := true, w0 := 0xAAAA#16,
                 w1 := 0xBBBB#16, dn := 2#16 } }

/-- V43.2, the eighteenth execution. -/
theorem test_div_sd_end : gives (.divSD 5#4 4#4 3#4) seventeenth
    (fun t => getW 0#4 t == 0xFFFD#16 && getW 1#4 t == 0xFFFF#16 && t.dv == none) = true := by decide

/-! ## Program flow -/

/-- V44.2, with the target 0x000200. -/
theorem test_call : gives (.call 0x100#15 0#7) { ready with pc := 0x012346#23 }
    (fun t => wordAt 0x0800#16 t == 0x234A#16 && wordAt 0x0802#16 t == 1#16
      && getW 15#4 t == 0x0804#16 && t.pc == 0x200#23) = true := by decide

/-- V44.3 -/
theorem test_rcall : gives (.rcall 0x007F#16) ready
    (fun t => wordAt 0x0800#16 t == 0x0102#16 && t.pc == 0x200#23) = true := by decide

/-- V44.7 -/
theorem test_goto : gives (.goto 0x80#15 0#7) State.reset (fun t => t.pc == 0x100#23) = true := by
  decide

/-- V44.8 -/
theorem test_bra : gives (.bra 3#16) ready (fun t => t.pc == 0x108#23) = true := by decide

/-- V44.9 -/
theorem test_bra_self : gives (.bra 0xFFFF#16) ready (fun t => t.pc == 0x100#23) = true := by decide

/-- A stack with two words on it and W15 past them. -/
def stacked (lo hi : Word) : State := memN 0x0800#16 lo (memN 0x0802#16 hi (wN 15#4 0x0804#16 ready))

/-- V44.4 -/
theorem test_return : gives .ret (stacked 0x0104#16 0#16)
    (fun t => getW 15#4 t == 0x0800#16 && t.pc == 0x104#23) = true := by decide

/-- V44.5 -/
theorem test_retlw : gives (.retlw .word 0x55#10 0#4) (stacked 0x0104#16 0#16)
    (fun t => getW 0#4 t == 0x55#16 && t.pc == 0x104#23) = true := by decide

/-- V44.6 -/
theorem test_retfie : gives .retfie
    { stacked 0x0104#16 0x3300#16 with sr := { ready.sr with ipl := 4#3 } }
    (fun t => srLow t == 0x33#8 && !t.corcon.ipl3 && t.pc == 0x104#23) = true := by decide

/-- V60.13 -/
theorem test_retfie_ra : gives .retfie (stacked 0x010C#16 0x1000#16)
    (fun t => srLow t == 0x10#8 && t.pc == 0x10C#23) = true := by decide

/-- V44.10 -/
theorem test_nop : gives .nop { ready with pc := 0x102#23 } (fun t => t.pc == 0x104#23) = true := by
  decide

/-! ## Loops -/

/-- V45.1 -/
theorem test_repeat : gives (.repeatLit 17#14) ready
    (fun t => t.rcount == 17#14 && srWord t == 0x0010#16) = true := by decide

/-- V45.2 -/
theorem test_repeat_zero : gives (.repeatLit 0#14) ready
    (fun t => t.rcount == 0#14 && !t.sr.ra) = true := by decide

/-- V45.3 -/
theorem test_repeat_reg : gives (.repeatReg 3#4) (wN 3#4 2#16 ready)
    (fun t => t.rcount == 2#14 && t.sr.ra) = true := by decide

/-- V45.4 -/
theorem test_repeat_bits : exec (.repeatReg 3#4) (wN 3#4 0x4001#16 ready) = .refused .repeatCount := by
  rfl

/-- V45.5, the first of the three steps. -/
theorem test_repeat_step : runs (.movWsWd .word 0#4 (.plain .postInc) 1#4 (.plain .direct) 0#4)
    { wN 1#4 0x0900#16 ready with rcount := 2#14, sr := { ready.sr with ra := true } }
    (fun t => getW 1#4 t == 0x0902#16 && t.rcount == 1#14 && t.sr.ra && t.pc == 0x100#23) = true := by
  decide

/-- V45.7 -/
theorem test_do : gives (.doLit 33#14 3#16) ready
    (fun t => t.loop == { start := 0x104#22, stop := 0x10A#22, count := 33#14 }
      && srWord t == 0x0200#16 && t.pc == 0x104#23) = true := by decide

/-- V45.15 -/
theorem test_do_length : exec (.doLit 5#14 0#16) ready = .refused .doLength := by rfl

/-- R373: the two top bits of Wn are not used. -/
theorem test_do_reg : gives (.doReg 3#4 3#16) (wN 3#4 0xC005#16 ready)
    (fun t => t.loop.count == 5#14) = true := by decide

/-- V45.12 -/
theorem test_do_nesting : exec (.doReg 3#4 3#16) { ready with corcon := { ready.corcon with dl := 7#3 } }
    = .refused .doNesting := by rfl

/-- At the last instruction of a loop whose body is 0x000100 to 0x000108. -/
def atEnd (count : BitVec 14) : State :=
  { ready with
    pc := 0x108#23, loop := { start := 0x100#22, stop := 0x108#22, count := count }
    corcon := { ready.corcon with dl := 1#3 } }

/-- V45.8 -/
theorem test_do_again : runs .nop (atEnd 3#14)
    (fun t => t.loop.count == 2#14 && t.pc == 0x100#23 && t.corcon.dl == 1#3) = true := by decide

/-- V45.9 -/
theorem test_do_over : runs .nop (atEnd 0#14)
    (fun t => t.corcon.dl == 0#3 && t.pc == 0x10A#23 && t.loop.start == 0x100#22) = true := by decide

/-! ## System -/

/-- V46.1 -/
theorem test_disi : runs (.disi 3#14) ready (fun t => t.disicnt == 3#14) = true := by decide

/-- V46.2 -/
theorem test_disi_count : runs .ret { stacked 0x0104#16 0#16 with disicnt := 2#14 }
    (fun t => t.disicnt == 0#14) = true := by decide

/-- V46.3 -/
theorem test_pwrsv : gives (.pwrsv 0#1) ready (fun t => t.power == .sleep) = true
    ∧ step { ready with power := .sleep } = .fault .halted := ⟨by decide, rfl⟩

/-- V46.4 -/
theorem test_reset : gives .reset (memN 0x0900#16 0x5678#16 (wN 3#4 0x1234#16 (wN 15#4 0x0900#16 ready)))
    (fun t => getW 3#4 t == 0#16 && !isInit 3#4 t && getW 15#4 t == 0x0800#16 && t.pc == 0#23
      && wordAt 0x0900#16 t == 0x5678#16) = true := by decide

/-- V46.5 -/
theorem test_table : exec (.tblrdl .word .direct 0#4 .ind 1#4) ready = .refused .tableRead
    ∧ exec (.tblrdh .word .direct 0#4 .ind 1#4) ready = .refused .tableRead
    ∧ exec (.tblwtl .word .direct 0#4 .ind 1#4) ready = .refused .tableWrite
    ∧ exec (.tblwth .word .direct 0#4 .ind 1#4) ready = .refused .tableWrite :=
  ⟨rfl, rfl, rfl, rfl⟩

/-! ## Exceptions -/

/-- The entry of `e` at `s` leaves a state of which `p` holds. -/
def enters (e : Exception) (s : State) (p : State → Bool) : Bool :=
  match takeException e s with
  | .ok t => p t
  | .error _ => false

/-- The state of V60.1. -/
def repeating : State :=
  { ready with pc := 0x104#23, sr := { ready.sr with ra := true, z := true, c := true } }

/-- V60.1 -/
theorem test_interrupt : enters (.interrupt { level := 4#3, vector := 0x300#23 }) repeating
    (fun t => wordAt 0x0800#16 t == 0x0104#16 && wordAt 0x0802#16 t == 0x1300#16
      && getW 15#4 t == 0x0804#16 && srWord t == 0x0083#16 && t.pc == 0x300#23) = true := by decide

/-- V60.2 -/
theorem test_interrupt_nstdis : enters (.interrupt { level := 4#3, vector := 0x300#23 })
    { repeating with intcon := { repeating.intcon with nstdis := true } }
    (fun t => srWord t == 0x00E3#16) = true := by decide

/-- V60.3 -/
theorem test_trap : enters .stackError
    { ready with pc := 0x012346#23, sr := { ready.sr with c := true }, stackPending := true }
    (fun t => wordAt 0x0800#16 t == 0x2346#16 && wordAt 0x0802#16 t == 0x0101#16 && t.corcon.ipl3
      && t.sr.ipl == 4#3 && !t.stackPending) = true := by decide

/-- The exception that is taken at `s`. -/
def acceptedAt (b : Boundary) (s : State) : Option Exception := (acceptedException b s).map Prod.fst

/-- V60.4 -/
theorem test_priority : acceptedAt
    { reset := false, irqs := [{ level := 4#3, vector := 4#23 }, { level := 5#3, vector := 8#23 }] }
    { ready with sr := { ready.sr with ipl := 4#3 } }
    = some (.interrupt { level := 5#3, vector := 8#23 }) := by decide

/-- V60.5 -/
theorem test_masked : acceptedAt { reset := false, irqs := [{ level := 7#3, vector := 4#23 }] }
    { ready with corcon := { ready.corcon with ipl3 := true } } = none := by decide

/-- V60.7 -/
theorem test_stack_limit : gives (.movWsWd .word 0#4 (.plain .postInc) 15#4 (.plain .direct) 0#4)
    { wN 15#4 0x2002#16 (wN 0#4 0x5A5A#16 ready) with splim := 0x1FFE#16, splimEn := true }
    (fun t => wordAt 0x2002#16 t == 0x5A5A#16 && getW 15#4 t == 0x2004#16 && t.stackPending) = true := by
  decide

/-- V60.10 -/
theorem test_uninitialised : gives (.movWsWd .word 0#4 (.plain .direct) 0#4 (.plain .ind) 1#4)
    { State.reset with pc := 0x100#23 } (fun t => t.pc == 0#23 && t.cur.reset) = true := by decide

/-- V20.2 -/
theorem test_address_error : exec (.movWsWd .word 0#4 (.plain .direct) 0#4 (.plain .ind) 1#4)
    (wN 1#4 0x0901#16 ready) = .fault .addressError := by rfl

/-! ## The step -/

/-- A word placed where the step fetches is run as the first instruction after reset. -/
theorem test_fetch_word : (match step (State.reset.withFetchWord 24 0x2ABCD7) with
    | .next t => getW 7#4 t == 0xABCD#16 && t.pc == 2#23
    | .fault _ | .refused _ => false) = true := by decide

/-- V70.2: the stall is seen in DISICNT's countdown. -/
theorem test_stall : runs (.movWsWd .word 0#4 (.plain .direct) 3#4 (.plain .ind) 2#4)
    { wN 2#4 0x0900#16 ready with
      disicnt := 9#14, adjacent := true
      hist := [{ instr := .addWbWsWd .word 0#4 .direct 2#4 .direct 1#4,
                 access := { Access.quiet with modified := [2#4] } }] }
    (fun t => t.disicnt == 7#14) = true := by decide

/-- V70.11, in a handler entered right after the DO (`adjacent` is false). -/
theorem test_doend_hazard : memRead .word 0x003E#16
    { ready with adjacent := false, hist := [{ instr := .doLit 1#14 4#16, access := Access.quiet }] }
    = .error (.refused .doendRead) := by rfl

/-- V70.10, in a handler entered right after the write. -/
theorem test_splim_hazard : exec (.movWsWd .word 0#4 (.plain .direct) 0#4 (.plain .ind) 15#4)
    { ready with
      adjacent := false
      hist := [{ instr := .nop, access := { Access.quiet with wroteSplim := true } }] }
    = .refused .splimHazard := by rfl

/-- R366: a REPEAT #0 in front of a RETURN is refused itself, and one in front of a NOP is not. -/
theorem test_repeat_followed :
    runInstr (.repeatLit 0#14) { ready with prog := [(0x102, 0x060000#24)] } = .refused .repeatTarget
    ∧ runs (.repeatLit 0#14) { ready with prog := [(0x102, 0#24)] } (fun t => t.rptFresh) = true :=
  ⟨by rfl, by decide⟩

/-- R381: the end of a loop whose DOSTART and DOEND data writes have made equal. -/
theorem test_do_single : runInstr .nop { atEnd 3#14 with
    loop := { start := 0x108#22, stop := 0x108#22, count := 3#14 } } = .refused .doLength := by rfl

/-- R266: with PSV set an X prefetch at 0x8000 reads the program word though the device's Y range reaches
there, and with PSV clear it is refused. -/
theorem test_prefetch_psv :
    let s := { wN 8#4 0x8000#16 ready with
      prog := [(0, 0x1234#24)], dev := { ready.dev with yLast := 0xFFFF#16 } }
    let x := some (PreAccess.modify .lower .zero)
    gives (.mac .w4w5 .accA .w4 .w5 x none .none) { s with corcon := { s.corcon with psv := true } }
      (fun t => getW 4#4 t == 0x1234#16) = true
    ∧ exec (.mac .w4w5 .accA .w4 .w5 x none .none) s = .refused .prefetchBlock := ⟨by decide, by rfl⟩

/-- Log entry 62: [W9+W12] with W12 unmarked resets the device while modulo addressing is on. -/
theorem test_offset_mark : gives (.mac .w4w5 .accA .w4 .w5 (some .offset) none .none)
    { setW 9#4 0x0900#16 State.reset with pc := 0x100#23, modcon := 0x8000#16 }
    (fun t => t.cur.reset) = true := by decide

/-- R366: after a RETFIE, at the address after a REPEAT #0 that an exception came after. -/
theorem test_repeat_target : runInstr .ret
    { ready with targets := [(ready.pc, getW 15#4 ready)] } = .refused .repeatTarget := by rfl

/-- R478, R366: the same of a branch to itself: the step refuses it, and the run has not ended there. -/
theorem test_done_repeat_target :
    let s := { ready with targets := [(ready.pc, getW 15#4 ready)] }
    runInstr (.bra 0xFFFF#16) s = .refused .repeatTarget ∧ ¬ AtDone s :=
  ⟨rfl, fun h => absurd h.2.2.2.1 (by decide)⟩

/-- R300, R80: an entry between a REPEAT and the first execution of its target keeps that it is to come;
R364: the RETFIE leaves `rpt_fresh` 0; the divide it returns to samples its operands. -/
theorem test_repeat_interrupted :
    enters (.interrupt { level := 4#3, vector := 0x300#23 }) { repeating with rptFresh := true }
      (fun t => !t.rptFresh && t.targets == [(0x104#23, 0x0800#16)]) = true
    ∧ runs .retfie { stacked 0x0104#16 0x1000#16 with targets := [(0x104#23, 0x0800#16)] }
      (fun t => !t.rptFresh && t.sr.ra && t.pc == 0x104#23
        && t.targets == [(0x104#23, 0x0800#16)]) = true
    ∧ runs (.divSW 0#4 4#4 3#4) { wN 3#4 2#16 repeating with targets := [(0x104#23, 0x0800#16)] }
      (fun t => t.dv.any (fun r => r.iter == 1) && t.targets == []) = true
    ∧ runs (.divSW 0#4 4#4 3#4) { wN 3#4 2#16 repeating with targets := [(0x104#23, 0x0802#16)] }
      (fun t => t.dv == none) = true := by decide

/-- R116: RETLW into W0 with the stack over W1 and W0 pops what W0 held. -/
theorem test_retlw_order : gives (.retlw .word 0x55#10 0#4)
    (wN 0#4 0x0302#16 (wN 1#4 0#16 (wN 15#4 0x0004#16 ready)))
    (fun t => t.pc == 0x302#23 && getW 0#4 t == 0x55#16 && t.stackPending) = true := by decide

/-- R450: an entry in a REPEAT loop whose first push reaches RCOUNT writes it. -/
theorem test_entry_rcount : enters (.interrupt { level := 4#3, vector := 0x300#23 })
    (wN 15#4 0x0036#16 repeating)
    (fun t => t.rcount == 0x0104#14 && t.loop.count == 0x1300#14 && !t.sr.ra && t.pc == 0x300#23)
    = true := by decide

/-- R115: a prefetch of the word which the write back stores reads the old one; R99: a pointer that the
write back stores to keeps what is stored; R272: a fetched word replaces what the write back stored to
its register. -/
theorem test_mac_order :
    let x := some (PreAccess.modify .lower .plus2)
    let s := memN 0x0900#16 7#16 { wN 8#4 0x0900#16 ready with accb := 0x0012340000#40 }
    gives (.mac .w4w5 .accA .w4 .w5 x none .w13Inc) (wN 13#4 0x0900#16 s)
      (fun t => getW 4#4 t == 7#16 && getW 8#4 t == 0x0902#16 && getW 13#4 t == 0x0902#16
        && wordAt 0x0900#16 t == 0x1234#16) = true
    ∧ gives (.mac .w4w5 .accA .w4 .w5 x none .w13Inc) (wN 13#4 0x0010#16 s)
      (fun t => getW 4#4 t == 7#16 && getW 8#4 t == 0x1234#16) = true
    ∧ gives (.mac .w4w5 .accA .w4 .w5 x none .w13Inc) (wN 13#4 0x0008#16 s)
      (fun t => getW 4#4 t == 7#16 && getW 8#4 t == 0x0902#16) = true := by decide

/-- D40: a write back to SR clears SA, which the update of the same MAC sets (V42.2e). -/
theorem test_mac_sr : gives (.mac .w4w5 .accA .w4 .w4 none none .w13Inc)
    { wN 4#4 0x4000#16 (wN 5#4 0x4000#16 (wN 13#4 0x0042#16 ready)) with acca := 0x7FFFFFFFFF#40 }
    (fun t => !t.sr.sa && t.sr.oa && t.acca == 0x801FFFFFFF#40) = true := by decide

/-- R503: two second words wait for their NOPs; the one that runs takes no cycle and leaves the other. -/
theorem test_skip_nops : runs .nop { ready with disicnt := 5#14, skipNops := [0x300#23, 0x100#23] }
    (fun t => t.disicnt == 5#14 && t.skipNops == [0x300#23]) = true := by decide

/-- R427: an uninitialised pointer resets the device though the same instruction raises StackError at a
CPU level that R457 refuses. -/
theorem test_reset_before_trap : gives
    (.movWsWd .word 0#4 (.plain .ind) 1#4 (.plain .ind) 15#4)
    { wN 15#4 0x2004#16 ready with
      splim := 0x1FFE#16, splimEn := true, winit := Vector.replicate 15 false
      corcon := { ready.corcon with ipl3 := true }, sr := { ready.sr with ipl := 7#3 } }
    (fun t => t.cur.reset) = true := by decide

/-- R457: PUSH out of bounds at the trap's own level. -/
theorem test_trap_nested : exec (.movWsWd .word 0#4 (.plain .postInc) 15#4 (.plain .direct) 0#4)
    { wN 15#4 0x2004#16 ready with
      splim := 0x1FFE#16, splimEn := true
      corcon := { ready.corcon with ipl3 := true }, sr := { ready.sr with ipl := 4#3 } }
    = .refused .trapNested := by rfl

/-- R170: a MOV.D load at SPLIM + 2 checks the first address alone. -/
theorem test_movd_limit : gives (.movdLoad 0#3 .ind 15#4)
    { wN 15#4 0x2000#16 ready with splim := 0x1FFE#16, splimEn := true }
    (fun t => !t.stackPending) = true := by decide

/-- R290: a write back that sets SATA and SATB in CORCON leaves the update of the same MAC unsaturated:
the result of V42.2e. -/
theorem test_mac_modes : gives (.mac .w4w5 .accA .w4 .w4 none none .w13Inc)
    { wN 4#4 0x4000#16 (wN 5#4 0x4000#16 (wN 13#4 0x0044#16 ready)) with
      acca := 0x7FFFFFFFFF#40, accb := 0x0000E00000#40 }
    (fun t => t.corcon.sata && t.acca == 0x801FFFFFFF#40) = true := by decide

/-- A device with one range of each kind of special function register. -/
def withSfr : State :=
  { ready with dev := { ready.dev with
      sfr := [{ first := 0x0100#16, last := 0x0103#16, kind := .plain },
              { first := 0x0104#16, last := 0x0107#16, kind := .readOnly },
              { first := 0x0108#16, last := 0x010B#16, kind := .free }] } }

/-- R7: storage keeps a write, a read-only register ignores it, a free one draws at each read. -/
theorem test_sfr_kinds :
    stores .word 0x0102#16 0x1234#16 withSfr (fun t => wordAt 0x0102#16 t == 0x1234#16) = true
      ∧ stores .word 0x0104#16 0x1234#16 withSfr (fun t => wordAt 0x0104#16 t == 0#16) = true
      ∧ memRead .word 0x0108#16 withSfr = .ok (Config.freeWord 0, { withSfr with draws := 1 })
      ∧ memRead .word 0x010C#16 withSfr = .error (.refused .sfrWindow) :=
  ⟨by decide, by decide, rfl, rfl⟩

/-! ## Witnesses: the hypotheses of the obligations, met by concrete states and operands -/

/-- A next state. -/
def isNext (o : Host.Outcome State Fault Refusal) : Bool :=
  match o with
  | .next _ => true
  | .fault _ | .refused _ => false

/-- A completed step. -/
def isOk (o : Except Refusal State) : Bool :=
  match o with
  | .ok _ => true
  | .error _ => false

/-- `ready` with a NOP at 0x000100. -/
def loaded : State := { ready with prog := [(0x100, 0#24)] }

theorem test_witness_decode_encode :
    (Instr.call 0x100#15 1#7).words = 2 ∧ encodeSecond (.call 0x100#15 1#7) = some 1#24
      ∧ Instr.nop.words = 1 := by decide

theorem test_witness_second_word_is_nop : encodeSecond (.doLit 33#14 0xFFFD#16) = some 0xFFFD#24 := by
  decide

theorem test_witness_step_keeps_inv : Inv loaded ∧ isNext (step loaded) = true :=
  ⟨⟨rfl, ⟨rfl, rfl, rfl, rfl, rfl, rfl, rfl, rfl, rfl, rfl, rfl⟩, ⟨rfl, rfl⟩, trivial, by decide⟩,
    by decide⟩

theorem test_witness_program_constant : isNext (step loaded) = true := by decide

theorem test_witness_step_runs_decoded :
    loaded.power = .run ∧ (presented loaded).reset = false
      ∧ acceptedException (presented loaded) (openBoundary loaded) = none
      ∧ progRead loaded.pc loaded = some 0#24
      ∧ decode 0#24 (progRead (ahead 1 loaded.pc) loaded) = .ok .nop
      ∧ preCheck .nop (resumeTarget (openBoundary loaded)) = none := ⟨rfl, rfl, rfl, rfl, by decide, rfl⟩

theorem test_witness_complete_plain :
    isRepeat .nop = false ∧ ready.sr.ra = false ∧ loopActive ready = false
      ∧ ready.disicnt = 0#14 ∧ ready.cur.reset = false
      ∧ 0x0800 ≤ (getW 15#4 ready).toNat ∧ (getW 15#4 (wN 15#4 0x07FE#16 ready)).toNat < 0x0800
      ∧ ready.cur.stackEA = false := by decide

theorem test_witness_reset_values :
    let s := { ready with inputs := [{ reset := true, irqs := [] }] }
    s.power = .run ∧ (presented s).reset = true := by decide

/-- Pointers at both ends of W0 to W14, the source of a destination pointer's instruction direct; the
prefetch pointers, the offset W12 beside a marked pointer, and W13 beside two prefetches that are
ready. -/
theorem test_witness_uninit_pointer_resets :
    let s12 := setW 9#4 0x0900#16 State.reset
    let s13 := setW 8#4 0x0900#16 (setW 10#4 0x0A00#16 State.reset)
    let x := PreAccess.modify .lower .zero
    Mode.ind ≠ .direct ∧ 14#4 ≠ 15#4 ∧ isInit 14#4 State.reset = false
      ∧ isInit 0#4 State.reset = false ∧ WReg.isEven 4#4 = true
      ∧ srcReady .word .direct 3#4 State.reset = true
      ∧ isInit (prefetchReg .x x) State.reset = false ∧ isInit (prefetchReg .y x) State.reset = false
      ∧ isInit (prefetchReg .x .offset) s12 = true ∧ isInit 12#4 s12 = false
      ∧ prefetchOptReady .x none State.reset = true
      ∧ prefetchOptReady .x (some x) s13 = true
      ∧ DspReg.w4 ≠ .w5 ∧ isInit 13#4 s13 = false
      ∧ movesReady .w4 .w5 (some x) (some x) .none s13 = true := by decide

theorem test_witness_odd_word_faults :
    (0x0801#16).getLsbD 0 = true ∧ (0xFFFF#16).getLsbD 0 = true := by decide

/-- The first and the last word of RAM. -/
theorem test_witness_ram_word :
    Memory.wf ready.ram = true ∧ (0x0800#16).getLsbD 0 = false ∧ (0x27FE#16).getLsbD 0 = false
      ∧ regionOf .word 0x0800#16 ready = .storage ∧ regionOf .word 0x27FE#16 ready = .storage := by
  decide

/-- The ends of PCL and PCH, and of the reserved addresses. -/
theorem test_witness_registers_in_memory :
    0x002E#16 ≤ 0x0031#16 ∧ (0x002E#16).getLsbD 0 = false ∧ (0x0030#16).getLsbD 0 = false
      ∧ 0x0054#16 ≤ 0x007F#16 ∧ (0x0054#16).getLsbD 0 = false ∧ (0x007E#16).getLsbD 0 = false := by
  decide

theorem test_witness_sr_write : ready.sr.ra = false
    ∧ { ready with sr := { ready.sr with ra := true } }.sr.ra = true := by decide

theorem test_witness_sr_byte_write : ready.intcon.nstdis = false
    ∧ { ready with intcon := { ready.intcon with nstdis := true } }.intcon.nstdis = true := by decide

theorem test_witness_sr_read : memRead .word 0x0042#16 ready = .ok (0#16, ready)
    ∧ (0xFBFF#16).getLsbD 10 = false ∧ (0x3400#16).getLsbD 10 = true
    ∧ (0x3400#16).getLsbD 13 = true ∧ (0x3400#16).getLsbD 12 = true := ⟨rfl, by decide⟩

theorem test_witness_corcon_write :
    (0xF7FF#16).getLsbD 11 = false ∧ (0x0800#16).getLsbD 11 = true
      ∧ (0x00F7#16).getLsbD 3 = false ∧ (0x0008#16).getLsbD 3 = true
      ∧ { ready.corcon with dl := 7#3 }.dl ≠ 0#3 ∧ { ready.corcon with dl := 1#3 }.dl ≠ 0#3
      ∧ ready.corcon.dl = 0#3 := by decide

/-- With RA clear and set, DISICNT 0 and not, nothing executed before, and INTCON1 at the ends of its
range. -/
theorem test_witness_special_registers_write :
    let at' (a : Word) := { ready with dev := { ready.dev with intcon1 := some a } }
    ready.sr.ra = false ∧ { ready with sr := { ready.sr with ra := true } }.sr.ra = true
      ∧ (∀ e ∈ ready.hist.head?, isDo e.instr = false ∧ e.access.wroteDoend = false)
      ∧ ready.disicnt = 0#14 ∧ { ready with disicnt := 1#14 }.disicnt ≠ 0#14
      ∧ (at' 0x0080#16).dev.intcon1 = some 0x0080#16 ∧ (0x0080#16).getLsbD 0 = false
      ∧ (at' 0x07FE#16).dev.intcon1 = some 0x07FE#16 ∧ (0x07FE#16).getLsbD 0 = false
      ∧ 0x0080#16 ≤ 0x0080#16 ∧ 0x0080#16 < 0x0800#16
      ∧ 0x0080#16 ≤ 0x07FE#16 ∧ 0x07FE#16 < 0x0800#16 := by decide

/-- The first and the last word of the PSV window. -/
theorem test_witness_psv_read :
    let s := { ready with
      corcon := { ready.corcon with psv := true }
      prog := [(0, 0x123456#24), (0x7FFE, 0xABCDEF#24)] }
    s.corcon.psv = true ∧ (0x8000#16).getLsbD 15 = true ∧ (0x8000#16).getLsbD 0 = false
      ∧ (0xFFFE#16).getLsbD 15 = true ∧ (0xFFFE#16).getLsbD 0 = false
      ∧ progRead (s.psvpag ++ (0x8000#16).extractLsb' 1 14 ++ 0#1) s = some 0x123456#24
      ∧ progRead (s.psvpag ++ (0xFFFE#16).extractLsb' 1 14 ++ 0#1) s = some 0xABCDEF#24 := by decide

/-- W1 and W2 point into RAM, W3 at the data address of W2, W5 at the last byte of RAM. -/
def pointing : State :=
  wN 1#4 0x0900#16 (wN 2#4 0x0A00#16 (wN 3#4 4#16 (wN 5#4 0x27FF#16 ready)))

/-- A register, RAM, and a core register as the destination. -/
theorem test_witness_mov_result :
    srcReady .word .direct 1#4 pointing = true
      ∧ dstReady .word .direct 2#4 (srcNext .word .direct 1#4 pointing) = true
      ∧ srcReady .byte .postInc 5#4 pointing = true
      ∧ dstReady .byte .preDec 2#4 (srcNext .byte .postInc 5#4 pointing) = true
      ∧ dstReady .word .postInc 3#4 (srcNext .word .postInc 1#4 pointing) = true
      ∧ regionOf .word (operandAddr 2 .postInc 3#4 pointing) pointing = .core := by decide

theorem test_witness_push_result : Memory.wf ready.ram = true ∧ pushReady ready = true
    ∧ pushReady (wN 15#4 0x27FE#16 ready) = true := by decide

theorem test_witness_pop_result : popReady (stacked 1#16 2#16) = true
    ∧ popReady (wN 15#4 0x0802#16 ready) = true ∧ 3#4 ≠ 15#4 := by decide

/-- The word just below 0x0800, given as plain storage by the device, and the data address of W0. -/
theorem test_witness_pop_result_below :
    let s := { ready with dev := { ready.dev with
      sfr := [{ first := 0x0080#16, last := 0x07FF#16, kind := .plain }] } }
    ((getW 15#4 s - 2#16) &&& 0xFFFE#16).toNat < 0x0800 ∧ moduloOn s = false
      ∧ previously (fun e => e.access.wroteSplim) s = false
      ∧ readable .word 0x07FE#16 (moved 15#4 (-2) s) = true ∧ cpuLevel s < stackLevel s
      ∧ readable .word 0#16 (moved 15#4 (-2) (wN 15#4 2#16 s)) = true := by decide

/-- A push, or the second of two, at the word above SPLIM + 2, at 0x0000 and 0x001E below 0x0800, and
at the last word of a device with storage up to 0xFFFF; two pops from SPLIM + 4, and from 0x0002. -/
theorem test_witness_push_traps :
    let s := { wN 15#4 0x2002#16 ready with splim := 0x1FFE#16, splimEn := true }
    let u := wN 15#4 0x2000#16 s
    let top := { wN 15#4 0xFFFE#16 ready with
      splim := 0xFFFC#16, splimEn := true
      dev := { ready.dev with upperRam := some (0x8000#16, 0xFFFF#16) } }
    let v := wN 15#4 0x2006#16 s
    let low := wN 15#4 4#16 ready
    cpuLevel s < stackLevel s ∧ pushMade s = true ∧ s.splim.toNat + s.dev.splimSlack < 0x2002
      ∧ pushMade (pushNext 1#16 s) = true
      ∧ pushMade u = true ∧ pushMade (pushNext 1#16 u) = true
      ∧ getW 15#4 (pushNext 1#16 u) = 0x2002#16
      ∧ pushMade (wN 15#4 0#16 ready) = true ∧ pushMade (wN 15#4 0x001E#16 ready) = true
      ∧ cpuLevel ready < stackLevel ready
      ∧ pushMade top = true ∧ top.splimEn = true ∧ getW 15#4 top = 0xFFFE#16
      ∧ cpuLevel top < stackLevel top
      ∧ popMade v = true ∧ popMade (popNext v) = true ∧ popAddr v = 0x2004#16
      ∧ popMade low = true ∧ popMade (popNext low) = true ∧ popAddr low = 2#16
      ∧ popAddr (popNext low) = 0#16
      ∧ popMade (setW 15#4 (getW 14#4 (wN 14#4 0x2006#16 s)) (wN 14#4 0x2006#16 s)) = true
      ∧ popAddr (setW 15#4 (getW 14#4 (wN 14#4 0x2006#16 s)) (wN 14#4 0x2006#16 s)) = 0x2004#16
      ∧ 3#4 ≠ 15#4 := by decide

theorem test_witness_mov_file_literal :
    readable .word (wordFileAddr 2#15) ready = true
      ∧ readable .word (wordFileAddr 0x13FF#15) ready = true
      ∧ writable .word (fileAddr 0x1FFE#13) ready = true
      ∧ writable .byte (fileAddr 0x1FFF#13) ready = true := by decide

/-- A register pair, RAM, and the stack. -/
theorem test_witness_movd_result :
    doubleReady .direct 14#4 pointing = true ∧ doubleReady .postInc 1#4 pointing = true
      ∧ doubleReady .preDec 15#4 (wN 15#4 0x0804#16 ready) = true
      ∧ doubleDstReady .direct 14#4 pointing = true ∧ doubleDstReady .preDec 2#4 pointing = true
      ∧ doubleDstReady .postInc 15#4 ready = true := by decide

theorem test_witness_frame_result : pushReady ready = true
    ∧ popReady (setW 15#4 (getW 14#4 (wN 14#4 0x0802#16 ready)) (wN 14#4 0x0802#16 ready)) = true := by
  decide

theorem test_witness_extend_result : srcReady .byte .direct 1#4 pointing = true
    ∧ srcReady .byte .postDec 5#4 pointing = true := by decide

theorem test_witness_add_result :
    srcReady .word .ind 1#4 pointing = true
      ∧ dstReady .word .postInc 2#4 (srcNext .word .ind 1#4 pointing) = true
      ∧ srcReady .byte .direct 1#4 pointing = true
      ∧ dstReady .byte .direct 2#4 (srcNext .byte .direct 1#4 pointing) = true
      ∧ readable .word (fileAddr 0x0042#13) ready = true
      ∧ writable .word (fileAddr 0x0042#13) ready = true
      ∧ readable .byte (fileAddr 0x1FFF#13) ready = true := by decide

theorem test_witness_bit_result :
    readable .word (bitFileAddr 0x021#12) ready = true
      ∧ writable .word (bitFileAddr 0x021#12) ready = true
      ∧ readable .word (bitFileAddr 0xFFF#12) ready = true
      ∧ writable .word (bitFileAddr 0xFFF#12) ready = true := by decide

theorem test_witness_shift_result :
    (getW 1#4 (wN 1#4 15#16 ready)).toNat ≤ 15 ∧ 15 < (getW 1#4 (wN 1#4 16#16 ready)).toNat := by
  decide

theorem test_witness_mul_result :
    srcReady .word .preInc 1#4 pointing = true ∧ WReg.isEven 14#4 = true ∧ WReg.isEven 0#4 = true
      ∧ readable .word (fileAddr 0x0900#13) ready = true
      ∧ readable .byte (fileAddr 0x0901#13) ready = true := by decide

/-- W8 in X memory, W10 in Y memory, W13 in RAM; W4 is -1.0. -/
def fetching : State :=
  wN 4#4 0x8000#16 (wN 8#4 0x0900#16 (wN 10#4 0x0A00#16 (wN 13#4 0x0B00#16 ready)))

/-- Two prefetches and the write back through W13, and none of them, with the open product; a write back
of 0 to SR. -/
theorem test_witness_multiply_accumulate :
    let x := some (.modify .lower .plus6)
    let sr := wN 13#4 0x0042#16 fetching
    movesReady .w4 .w5 x x .w13Inc fetching = true
      ∧ movesReady .w4 .w4 none none .none fetching = true
      ∧ (∀ p ∈ products (getW 4#4 fetching) (getW 5#4 fetching) fetching,
        accReady .accA ((getAcc .accA fetching).toInt + p) fetching = true
          ∧ accReady .accA ((getAcc .accA fetching).toInt - p) fetching = true
          ∧ accReady .accA p fetching = true ∧ accReady .accA (-p) fetching = true)
      ∧ (∀ p ∈ products (getW 4#4 fetching) (getW 4#4 fetching) fetching,
        accReady .accA ((getAcc .accA fetching).toInt + p) fetching = true
          ∧ accReady .accA p fetching = true)
      ∧ movesReady .w4 .w5 x x .w13Inc sr = true ∧ getW 13#4 sr = 0x0042#16
      ∧ (writeBackValue .accA sr).getLsbD 13 = false
      ∧ ∀ p ∈ products (getW 4#4 sr) (getW 5#4 sr) sr,
        accReady .accA ((getAcc .accA sr).toInt + p) sr = true := by decide

theorem test_witness_distance_result :
    let x := PreAccess.modify .lower .minus2
    prefetchReady .x x fetching = true
      ∧ prefetchReady .y x (prefetchNext .x x fetching) = true
      ∧ ∀ p ∈ products (getW 4#4 fetching) (getW 4#4 fetching) fetching,
        accReady .accB p fetching = true
          ∧ accReady .accB ((getAcc .accB fetching).toInt + p) fetching = true := by decide

/-- The three saturation modes at the first value that does not fit 40 bits, OVATE and COVTE set. -/
theorem test_witness_accumulator_update :
    let s := { ready with intcon := { ready.intcon with ovate := true, covte := true } }
    let t := { s with corcon := { s.corcon with sata := true } }
    let u := { s with corcon := { s.corcon with sata := true, accsat := true } }
    satOn .accA s = false ∧ accTraps .accA (2 ^ 39) s = true
      ∧ satOn .accA t = true ∧ t.corcon.accsat = false ∧ satOn .accA u = true ∧ u.corcon.accsat = true := by decide

theorem test_witness_accumulator_load :
    accReady .accA (ready.acca.toInt + ready.accb.toInt) ready = true
      ∧ srcReady .word .postInc 1#4 pointing = true
      ∧ accReady .accB (scaledWord (srcVal .word .postInc 1#4 pointing) (-8)) pointing = true
      ∧ accReady .accB ((getAcc .accB pointing).toInt
        + scaledWord (srcVal .word .postInc 1#4 pointing) 7) pointing = true := by decide

theorem test_witness_accumulator_store : dstReady .word .direct 2#4 pointing = true
    ∧ dstReady .word .preDec 2#4 pointing = true := by decide

/-- Shifts of 16 either way, of 17 either way, and the register amounts at the ends of their range. -/
theorem test_witness_accumulator_shift :
    (0x10#6).toInt = 16 ∧ (0x30#6).toInt = -16 ∧ (0x11#6).toInt = 17 ∧ (0x2F#6).toInt = -17
      ∧ accReady .accA (scaledAcc (getAcc .accA ready) 16) ready = true
      ∧ accReady .accA (scaledAcc (getAcc .accA ready) (-16)) ready = true
      ∧ cpuLevel ready < arithLevel ready
      ∧ (getW 1#4 (wN 1#4 31#16 ready)).toInt = 31 ∧ (getW 1#4 (wN 1#4 0xFFE0#16 ready)).toInt = -32
      ∧ 31 < (getW 1#4 (wN 1#4 32#16 ready)).toInt
      ∧ (getW 1#4 (wN 1#4 0xFFDF#16 ready)).toInt < -32 := by decide

/-- A first execution by 2 and by 0, the eighteenth, and one whose record was lost. -/
theorem test_witness_divide_executions :
    3#4 ≠ 0#4 ∧ 3#4 ≠ 1#4 ∧ WReg.isEven 4#4 = true
      ∧ firstExecution (wN 3#4 2#16 ready) = true ∧ divisor .sd 3#4 (wN 3#4 2#16 ready) ≠ 0
      ∧ divisor .sd 3#4 ready = 0 ∧ cpuLevel ready < arithLevel ready
      ∧ firstExecution seventeenth = false
      ∧ seventeenth.dv.all (fun r => continues r 3#4 seventeenth && r.iter == 17 && r.ok) = true
      ∧ seventeenth.dv.isSome = true
      ∧ firstExecution { seventeenth with dv := none } = false := by decide

/-- Right after a REPEAT #17 before the divide of V43.2. -/
theorem test_witness_divide_in_eighteen :
    let s := { wN 5#4 0xFFFF#16 (wN 4#4 0xFFF9#16 (wN 3#4 2#16 ready)) with
      sr := { ready.sr with ra := true }, rptFresh := true, rcount := 17#14 }
    3#4 ≠ 0#4 ∧ 3#4 ≠ 1#4 ∧ WReg.isEven 4#4 = true ∧ loopActive s = false
      ∧ Config.ramBase ≤ (getW 15#4 s).toNat ∧ divisor .sd 3#4 s ≠ 0
      ∧ quotientFits .sd ((dividend .sd 4#4 s).tdiv (divisor .sd 3#4 s)) = true
      ∧ quotientFits .uw ((dividend .uw 4#4 s).tdiv (divisor .uw 3#4 s)) = true := by decide

theorem test_witness_call_result :
    pushTwoReady ((ready.pc + 4#23).extractLsb' 0 16) ready = true
      ∧ pushTwoReady ((ready.pc + 2#23).extractLsb' 0 16) ready = true := by decide

theorem test_witness_return_result : popTwoReady (stacked 0x0104#16 0#16) = true
    ∧ 0#4 ≠ 15#4 := by decide

theorem test_witness_retfie_result : popTwoReady (stacked 0x0104#16 0x3300#16) = true := by decide

theorem test_witness_repeat_start : isNext (runInstr (.repeatLit 2#14) ready) = true := by decide

/-- The largest count; RA set, RCOUNT 0 and not 0; the steps of a REPEAT and of a NOP; an exception
entry and the step of a RETFIE; and a state after a REPEAT #0, its target not yet run. -/
theorem test_witness_repeat_rule :
    let s := { ready with sr := { ready.sr with ra := true } }
    (getW 1#4 (wN 1#4 0x3FFF#16 ready)).toNat < 2 ^ 14
      ∧ isRepeat .nop = false ∧ loopActive s = false ∧ s.cur.reset = false
      ∧ isOk (complete .nop s s) = true ∧ isOk (complete .nop s { s with rcount := 1#14 }) = true
      ∧ isOk (complete (.repeatLit 0#14) ready ready) = true
      ∧ enters .stackError ready (fun _ => true) = true
      ∧ { ready with rptFresh := true }.rptFresh = true
      ∧ progRead (ahead 1 ready.pc) { ready with prog := [(0x102, 0x060000#24)] } = some 0x060000#24
      ∧ decode 0x060000#24 none = .ok .ret
      ∧ isOk (complete .retfie ready ready) = true := by decide

theorem test_witness_repeat_runs :
    let s := { ready with sr := { ready.sr with ra := true }, rcount := 0x3FFF#14 }
    1#4 ≠ 2#4 ∧ 1#4 ≠ 15#4 ∧ s.sr.ra = true ∧ loopActive s = false
      ∧ Config.ramBase ≤ (getW 15#4 s).toNat := by decide

/-- The lengths next to those refused, an address past bit 21, and the levels 6 and 1 (level 7:
`test_do_nesting`). -/
theorem test_witness_do_start :
    let at' (p : PAddr) (n : BitVec 16) := BitVec.ofInt 23 ((p + 4#23).toNat + 2 * n.toInt)
    (0xFFFE#16).toInt = -2 ∧ (0xFFFF#16).toInt = -1 ∧ (0#16).toInt = 0
      ∧ (1#16).toInt = 1 ∧ (0xFFFD#16).toInt = -3
      ∧ (0x3FFFFC#23 + 4#23).getLsbD 22 = true ∧ (at' 0x3FFFF8#23 2#16).getLsbD 22 = true
      ∧ (ready.pc + 4#23).getLsbD 22 = false ∧ (at' ready.pc 1#16).getLsbD 22 = false
      ∧ (at' ready.pc 0xFFFD#16).getLsbD 22 = false
      ∧ isNext (exec (.doLit 1#14 1#16) { ready with corcon := { ready.corcon with dl := 6#3 } }) = true
      ∧ isNext (exec (.doLit 1#14 0xFFFD#16) { ready with corcon := { ready.corcon with dl := 1#3 } })
        = true := by decide

/-- The end of a loop with iterations left, of the last loop, of an inner loop, and of two at once; a
last instruction that may not end a loop, a REPEAT target, and a write of DCOUNT by the last
instruction or one before it, of IPL by the third before it. -/
theorem test_witness_do_end :
    let wrote (a : Access) : Executed := { instr := .nop, access := a }
    let counts := wrote { Access.quiet with wroteLoop := true }
    let level := wrote { Access.quiet with wrotePriority := true }
    let quiet := wrote Access.quiet
    let inner := { atEnd 0#14 with
      corcon := { ready.corcon with dl := 2#3 }
      loopShadow := { start := 0x80#22, stop := 0x180#22, count := 2#14 } }
    loopActive (atEnd 1#14) = true ∧ (atEnd 1#14).pc = 0#1 ++ (atEnd 1#14).loop.stop
      ∧ forbiddenLast .nop = false ∧ forbiddenLast .ret = true ∧ isTarget (atEnd 1#14) = false
      ∧ isTarget { atEnd 1#14 with rptFresh := true } = true
      ∧ (atEnd 1#14).loop.start ≠ (atEnd 1#14).loop.stop ∧ inner.loop.start ≠ inner.loop.stop
      ∧ (atEnd 1#14).cur.reset = false ∧ nearEndWrite (atEnd 1#14) (atEnd 1#14) = false
      ∧ nearEndWrite { atEnd 1#14 with hist := [quiet, counts] } (atEnd 1#14) = true
      ∧ nearEndWrite { atEnd 1#14 with hist := [quiet, quiet, level] } (atEnd 1#14) = true
      ∧ nearEndWrite { atEnd 1#14 with hist := [quiet, quiet, counts] } (atEnd 1#14) = false
      ∧ nearEndWrite { atEnd 1#14 with hist := [level, quiet, quiet] } (atEnd 1#14) = false
      ∧ 0x0800 ≤ (getW 15#4 (atEnd 1#14)).toNat
      ∧ (atEnd 1#14).loop.count ≠ 0#14 ∧ (atEnd 1#14).edt ≠ .ripe
      ∧ (atEnd 0#14).loop.count = 0#14 ∧ (atEnd 0#14).corcon.dl ≠ 2#3
      ∧ inner.corcon.dl = 2#3 ∧ inner.loopShadow.stop ≠ inner.loop.stop
      ∧ { inner with edt := .ripe }.edt = .ripe
      ∧ isTarget inner = false ∧ inner.pc = 0#1 ++ inner.loop.stop
      ∧ { inner with loopShadow := inner.loop }.loopShadow.stop = inner.loop.stop := by decide

theorem test_witness_system_result : { ready with power := .idle }.power ≠ .run := by decide

/-- A step that completes with each of: a write to DISICNT, a stall and none, a PSV read that costs
time, a skip of one word and of two, a NOP that takes no cycle; MOV, CALL and RETURN that answer. -/
theorem test_witness_disi_countdown :
    let counting := { ready with disicnt := 9#14 }
    let wrote := { counting with cur := { Access.quiet with wroteDisi := true } }
    let reading := { counting with cur := { Access.quiet with sourceEA := [2#4], psvRead := true } }
    let after := { counting with
      adjacent := true
      hist := [{ instr := .nop, access := { Access.quiet with modified := [2#4] } }] }
    let skipping := { counting with pc := 0x104#23 }
    let twoWords := { counting with prog := [(0x102, 0x040200#24), (0x104, 0#24)] }
    isNext (runInstr (.disi 3#14) (openBoundary ready)) = true
      ∧ isOk (complete .nop ready { ready with disicnt := 1#14 }) = true
      ∧ ready.cur.reset = false ∧ ready.cur.wroteDisi = false ∧ ready.cur.psvRead = false
      ∧ isOk (complete .nop counting wrote) = true ∧ wrote.cur.wroteDisi = true
      ∧ isOk (complete .nop after reading) = true ∧ stalls after reading = true
      ∧ stalls counting reading = false ∧ psvCosts counting reading = true
      ∧ skipping.pc = counting.pc + 4#23 ∧ isOk (complete (.btsc 0#4 0#12) counting skipping) = true
      ∧ skipsTwoWords twoWords = true ∧ skipsTwoWords counting = false
      ∧ 0x100#23 ∈ { counting with skipNops := [0x100#23] }.skipNops
      ∧ isNext (exec (.movWsWd .word 0#4 (.plain .direct) 1#4 (.plain .postInc) 1#4) pointing) = true
      ∧ isNext (exec (.call 0#15 0#7) ready) = true
      ∧ isNext (exec .ret (stacked 0x0104#16 0#16)) = true ∧ pointing.cur.reset = false := by decide

/-- A state at the level of StackError, W15 beyond the limit. -/
def nested : State :=
  { wN 15#4 0x2002#16 ready with
    splim := 0x1FFE#16, splimEn := true
    corcon := { ready.corcon with ipl3 := true }, sr := { ready.sr with ipl := 4#3 } }

theorem test_witness_excluded_forms :
    let after (i : Instr) (a : Access) := { ready with hist := [{ instr := i, access := a }] }
    WReg.isEven 3#4 = false ∧ WReg.isEven 15#4 = false ∧ WReg.isEven 4#4 = true ∧ 1#4 ≠ 0#4
      ∧ 6#4 ≠ 4#4 + 1#4 ∧ 3#4 ≠ 0#4 ∧ 3#4 ≠ 1#4
      ∧ 2 ^ 14 ≤ (getW 1#4 (wN 1#4 0x4000#16 ready)).toNat
      ∧ { ready with modcon := 0x4000#16 }.modcon.getLsbD 14 = true ∧ isInit 15#4 ready = true
      ∧ moduloOn ready = false
      ∧ (after .nop { Access.quiet with wroteSplim := true }).hist
        = [{ instr := .nop, access := { Access.quiet with wroteSplim := true } }]
      ∧ isDo (.doLit 1#14 4#16) = true
      ∧ stackLevel nested ≤ cpuLevel nested ∧ nested.stackPending = false ∧ pushMade nested = true
      ∧ pushTraps nested = true ∧ arithLevel nested ≤ cpuLevel nested
      ∧ nested.arithPending = false ∧ (0x2F#6).toInt < -16 ∧ 16 < (0x11#6).toInt := by decide

/-- The first and the last two words of RAM; and pushes that trap, the first or only the second. -/
theorem test_witness_exception_entry :
    let s := { ready with splim := 0x1FFE#16, splimEn := true }
    entryStorage ready = true ∧ entryStorage (wN 15#4 0x27FC#16 ready) = true
      ∧ entryStorage (wN 15#4 0x2002#16 s) = true
      ∧ entryTraps .arithmeticError (wN 15#4 0x2002#16 s) = true
      ∧ entryTraps .arithmeticError (wN 15#4 0x2000#16 s) = true
      ∧ entryTraps .arithmeticError (wN 15#4 0x1FFE#16 s) = false
      ∧ entryTraps .stackError (wN 15#4 0x2002#16 s) = false := by decide

/-- A reset presented, two traps pending, one trap, two requests, one of them held off by DISI. -/
theorem test_witness_exception_choice :
    let four : Irq := { level := 4#3, vector := 4#23 }
    let seven : Irq := { level := 7#3, vector := 8#23 }
    let s := { ready with inputs := [{ reset := false, irqs := [four, seven] }], disicnt := 1#14 }
    (presented { ready with inputs := [{ reset := true, irqs := [] }] }).reset = true
      ∧ (presented s).reset = false
      ∧ acceptedAt (presented s) (openBoundary s) = some (.interrupt seven)
      ∧ acceptedAt Boundary.silent { ready with stackPending := true, arithPending := true }
        = some .stackError
      ∧ acceptedAt Boundary.silent { ready with arithPending := true } = some .arithmeticError
      ∧ acceptedAt Boundary.silent ready = none
      ∧ acceptedAt { reset := false, irqs := [four] } s = none := by decide

theorem test_witness_exception_round_trip :
    { repeating with rptFresh := true }.rptFresh = true ∧ Memory.wf repeating.ram = true ∧ repeating.pc.getLsbD 0 = false
      ∧ pushTwoReady (repeating.pc.extractLsb' 0 16) repeating = true
      ∧ repeating.cur.wroteSplim = false
      ∧ (∀ x ∈ repeating.hist.head?, x.access.wroteSplim = false) := by decide

end Sys2Proof.Machine
end

/-! Proofs of the statements about the machine as a whole that say what no step changes and how
a step is made, and of the forms the rules exclude. -/

namespace Sys2Proof.Machine

/-! ## What no step changes: the program and the device (R112, D9) -/

/-- `t` has the program words and the device parameters of `s`. -/
def SameProgram (s t : State) : Prop := t.prog = s.prog ∧ t.dev = s.dev

theorem SameProgram.refl (s : State) : SameProgram s s := ⟨rfl, rfl⟩

theorem SameProgram.trans {s t u : State} (h : SameProgram s t) (h' : SameProgram t u) :
    SameProgram s u :=
  ⟨h'.1.trans h.1, h'.2.trans h.2⟩

theorem Like.sameProgram {s t : State} (h : Like s t) : SameProgram s t := by
  rw [h]; exact ⟨rfl, rfl⟩

/-- Where the operation `x` answers, the state `g` finds in its answer has the program of `s`. -/
def KeepsProgram {α : Type} (g : α → State) (s : State) (x : Except Stop α) : Prop :=
  ∀ a, x = .ok a → SameProgram s (g a)

/-- An operation that answers a state keeps the program of `s`. -/
abbrev KeepsState (s : State) (x : Except Stop State) : Prop := KeepsProgram id s x

/-- An operation that answers a value and a state keeps the program of `s`. -/
abbrev KeepsPair {α : Type} (s : State) (x : Except Stop (α × State)) : Prop :=
  KeepsProgram Prod.snd s x

theorem keepsProgram_ok {α : Type} {g : α → State} {s : State} {a : α} (h : SameProgram s (g a)) :
    KeepsProgram g s (.ok a) := by
  intro b hb; cases hb; exact h

theorem keepsProgram_error {α : Type} {g : α → State} {s : State} {e : Stop} :
    KeepsProgram g s (.error e) := by
  intro b hb; cases hb

/-- Two operations in turn. -/
theorem KeepsProgram.bind {α β : Type} {g : α → State} {f : β → State} {s : State}
    {x : Except Stop α} {k : α → Except Stop β} (hx : KeepsProgram g s x)
    (hk : ∀ a, KeepsProgram f (g a) (k a)) : KeepsProgram f s (x >>= k) := by
  intro b hb
  obtain ⟨a, ha, hka⟩ := bind_ok hb
  exact (hx a ha).trans (hk a b hka)

/-- A check that answers no state, and then an operation. -/
theorem keepsProgram_check {α β : Type} {f : β → State} {s : State} {x : Except Stop α}
    {k : α → Except Stop β} (hk : ∀ a, KeepsProgram f s (k a)) : KeepsProgram f s (x >>= k) := by
  intro b hb
  obtain ⟨a, -, hka⟩ := bind_ok hb
  exact hk a b hka

/-- An operation on a state made from `s`. -/
theorem SameProgram.keeps {α : Type} {g : α → State} {s t : State} {x : Except Stop α}
    (h : SameProgram s t) (hx : KeepsProgram g t x) : KeepsProgram g s x :=
  fun a ha => h.trans (hx a ha)

/-! ### The operations over registers and memory -/

theorem writeReg_sameProgram (r : CoreReg) (wide : Bool) (v : Word) (s : State) :
    SameProgram s (writeReg r wide v s) := by
  cases r with
  | w n => cases wide <;> exact ⟨rfl, rfl⟩
  | accL x | accH x | accU x => cases x <;> exact ⟨rfl, rfl⟩
  | _ => exact ⟨rfl, rfl⟩

theorem written_sameProgram (sz : Size) (a v : Word) (s : State) :
    SameProgram s (written sz a v s) := by
  unfold written
  cases regionOf sz a s with
  | core => exact writeReg_sameProgram ..
  | storage => cases sz <;> exact ⟨rfl, rfl⟩
  | _ => exact ⟨rfl, rfl⟩

theorem memRead_keeps {sz : Size} {a : Word} {s : State} : KeepsPair s (memRead sz a s) :=
  fun _ h => (memRead_ok h).2.2.sameProgram

theorem memWrite_keeps {sz : Size} {a v : Word} {s : State} : KeepsState s (memWrite sz a v s) :=
  fun _ h => (written_sameProgram sz a v s).trans (memWrite_ok h).2.sameProgram

theorem setWSized_sameProgram (sz : Size) (n : WReg) (v : Word) (s : State) :
    SameProgram s (setWSized sz n v s) := by
  cases sz <;> exact ⟨rfl, rfl⟩

theorem stackCheck_sameProgram (role : Role) (n : WReg) (ea : Word) (s : State) :
    SameProgram s (stackCheck role n ea s) := by
  unfold stackCheck; split <;> exact ⟨rfl, rfl⟩

theorem movePtr_sameProgram (role : Role) (n : WReg) (d : Int) (s : State) :
    SameProgram s (movePtr role n d s) := by
  simp only [movePtr]
  split <;> split <;> exact ⟨rfl, rfl⟩

theorem stepPtr_sameProgram (role : Role) (n : WReg) (d : Int) (s : State) :
    SameProgram s (stepPtr role n d s) := by
  unfold stepPtr
  split
  · exact .refl s
  · exact movePtr_sameProgram role n d s

theorem useEA_keeps {role : Role} {n : WReg} {s : State} : KeepsPair s (useEA role n s) := by
  unfold useEA
  split
  · exact keepsProgram_error
  · exact keepsProgram_ok (stackCheck_sameProgram role n _ (noteEA role n s))

theorem push_keeps {role : Role} {v : Word} {s : State} : KeepsState s (push role v s) :=
  useEA_keeps.bind fun ⟨_, t⟩ => (movePtr_sameProgram role 15#4 2 t).keeps memWrite_keeps

theorem pop_keeps {s : State} : KeepsPair s (pop s) :=
  (movePtr_sameProgram .source 15#4 (-2) s).keeps (useEA_keeps.bind fun _ => memRead_keeps)

theorem pushReturn_keeps {ret : PAddr} {s : State} : KeepsState s (pushReturn ret s) :=
  push_keeps.bind fun _ => push_keeps

theorem popReturn_keeps {s : State} : KeepsState s (popReturn s) :=
  pop_keeps.bind fun _ => pop_keeps.bind fun _ => keepsProgram_ok ⟨rfl, rfl⟩

theorem returnFromException_keeps {s : State} : KeepsState s (returnFromException s) :=
  pop_keeps.bind fun _ => pop_keeps.bind fun _ => keepsProgram_ok ⟨rfl, rfl⟩

/-! ### The operand forms -/

theorem operandEA_keeps {role : Role} {k : Nat} {m : Mode} {n : WReg} {s : State} :
    KeepsPair s (operandEA role k m n s) :=
  (stepPtr_sameProgram role n (preStep m * k) s).keeps useEA_keeps

theorem srcOperand_keeps {sz : Size} {m : Mode} {n : WReg} {s : State} :
    KeepsPair s (srcOperand sz m n s) := by
  unfold srcOperand
  split
  · exact keepsProgram_ok (.refl s)
  · exact operandEA_keeps.bind fun _ => memRead_keeps.bind fun _ =>
      keepsProgram_ok (stepPtr_sameProgram ..)

theorem dstOperand_keeps {sz : Size} {m : Mode} {n : WReg} {v : Word} {s : State} :
    KeepsState s (dstOperand sz m n v s) := by
  unfold dstOperand
  split
  · exact keepsProgram_ok (setWSized_sameProgram sz n v s)
  · exact operandEA_keeps.bind fun _ => (stepPtr_sameProgram ..).keeps memWrite_keeps

theorem srcMov_keeps {sz : Size} {m : MovMode} {n : WReg} {s : State} :
    KeepsPair s (srcMov sz m n s) :=
  keepsProgram_check fun _ => srcOperand_keeps

theorem dstMov_keeps {sz : Size} {m : MovMode} {n : WReg} {v : Word} {s : State} :
    KeepsState s (dstMov sz m n v s) :=
  keepsProgram_check fun _ => dstOperand_keeps

theorem srcDouble_keeps {m : Mode} {n : WReg} {s : State} : KeepsPair s (srcDouble m n s) := by
  unfold srcDouble
  split
  · exact keepsProgram_check fun _ => keepsProgram_ok (.refl s)
  · exact operandEA_keeps.bind fun _ => memRead_keeps.bind fun _ => memRead_keeps.bind fun _ =>
      keepsProgram_ok (stepPtr_sameProgram ..)

theorem dstDouble_keeps {m : Mode} {n : WReg} {v : BitVec 32} {s : State} :
    KeepsState s (dstDouble m n v s) := by
  unfold dstDouble
  split
  · exact keepsProgram_check fun _ => keepsProgram_ok ⟨rfl, rfl⟩
  · exact operandEA_keeps.bind fun _ =>
      ((stackCheck_sameProgram ..).trans (stepPtr_sameProgram ..)).keeps
        (memWrite_keeps.bind fun _ => memWrite_keeps)

/-! ### The DSP engine and the divides -/

theorem prefetchEA_keeps {side : Side} {a : PreAccess} {s : State} :
    KeepsPair s (prefetchEA side a s) := by
  cases a with
  | modify p k => exact useEA_keeps
  | offset =>
    simp only [prefetchEA]
    split
    · exact useEA_keeps.bind fun _ => useEA_keeps.bind fun _ => keepsProgram_ok (.refl _)
    · exact keepsProgram_error

theorem prefetchRead_keeps {side : Side} {ea : Word} {s : State} :
    KeepsPair s (prefetchRead side ea s) := by
  unfold prefetchRead
  split
  · exact memRead_keeps
  · exact keepsProgram_error

theorem prefetchMod_sameProgram (side : Side) (a : PreAccess) (s : State) :
    SameProgram s (prefetchMod side a s) := by
  cases a with
  | modify p k => exact stepPtr_sameProgram ..
  | offset => exact .refl s

theorem prefetchOne_keeps {side : Side} {a : PreAccess} {s : State} :
    KeepsPair s (prefetchOne side a s) :=
  prefetchEA_keeps.bind fun _ => prefetchRead_keeps.bind fun _ =>
    keepsProgram_ok (prefetchMod_sameProgram ..)

theorem prefetchOptEA_keeps {side : Side} {a : Option PreAccess} {s : State} :
    KeepsPair s (prefetchOptEA side a s) := by
  cases a with
  | none => exact keepsProgram_ok (.refl s)
  | some a => exact prefetchEA_keeps.bind fun _ => keepsProgram_ok (.refl _)

theorem prefetchOptRead_keeps {side : Side} {ea : Option Word} {s : State} :
    KeepsPair s (prefetchOptRead side ea s) := by
  cases ea with
  | none => exact keepsProgram_ok (.refl s)
  | some ea => exact prefetchRead_keeps.bind fun _ => keepsProgram_ok (.refl _)

theorem prefetchOptMod_sameProgram (side : Side) (a : Option PreAccess) (s : State) :
    SameProgram s (prefetchOptMod side a s) := by
  cases a with
  | none => exact .refl s
  | some a => exact prefetchMod_sameProgram side a s

theorem setFetched_sameProgram (r : DspReg) (v : Option Word) (s : State) :
    SameProgram s (setFetched r v s) := by
  cases v <;> exact ⟨rfl, rfl⟩

theorem writeBackEA_keeps {b : WriteBack} {s : State} : KeepsPair s (writeBackEA b s) := by
  cases b with
  | none => exact keepsProgram_ok (.refl s)
  | w13 => exact keepsProgram_ok (.refl s)
  | w13Inc => exact useEA_keeps

theorem writeBack_keeps {b : WriteBack} {ea v : Word} {s : State} :
    KeepsState s (writeBack b ea v s) := by
  cases b with
  | none => exact keepsProgram_ok (.refl s)
  | w13 => exact keepsProgram_ok ⟨rfl, rfl⟩
  | w13Inc => exact (movePtr_sameProgram ..).keeps memWrite_keeps

theorem writeBackWins_sameProgram (b : WriteBack) (ea v : Word) (s : State) :
    SameProgram s (writeBackWins b ea v s) := by
  unfold writeBackWins; split <;> exact ⟨rfl, rfl⟩

theorem accUpdate_sameProgram (x : AccId) (r : Int) (m s : State) :
    SameProgram s (accUpdate x r m s) := by
  rw [accUpdate_eq]; cases x <;> exact ⟨rfl, rfl⟩

theorem shiftAcc_sameProgram (x : AccId) (k : Int) (s : State) :
    SameProgram s (shiftAcc x k s) := by
  unfold shiftAcc
  split
  · exact ⟨rfl, rfl⟩
  · exact accUpdate_sameProgram x _ s s

theorem dspMul_sameProgram (x y : Word) (s : State) : SameProgram s (dspMul x y s).2 := by
  unfold dspMul; split <;> exact ⟨rfl, rfl⟩

theorem multiplyAcc_keeps {f : Int → Int → Int} {wm wn : WReg} {x : AccId} {xd yd : DspReg}
    {px py : Option PreAccess} {b : WriteBack} {s : State} :
    KeepsState s (multiplyAcc f wm wn x xd yd px py b s) :=
  (dspMul_sameProgram (getW wm s) (getW wn s) s).keeps <| keepsProgram_check fun _ =>
    prefetchOptEA_keeps.bind fun _ => prefetchOptEA_keeps.bind fun _ =>
    writeBackEA_keeps.bind fun _ =>
    prefetchOptRead_keeps.bind fun _ => prefetchOptRead_keeps.bind fun _ =>
    ((prefetchOptMod_sameProgram ..).trans (prefetchOptMod_sameProgram ..)).keeps <|
    writeBack_keeps.bind fun _ => keepsProgram_ok <|
      (setFetched_sameProgram ..).trans <| (setFetched_sameProgram ..).trans <|
      (accUpdate_sameProgram ..).trans (writeBackWins_sameProgram ..)

theorem distance_keeps {f : Int → Int → Int} {m : DspReg} {x : AccId} {xd : DspReg}
    {px py : PreAccess} {s : State} : KeepsState s (distance f m x xd px py s) :=
  (dspMul_sameProgram (getW (dspW m) s) (getW (dspW m) s) s).keeps <|
    prefetchOne_keeps.bind fun _ => prefetchOne_keeps.bind fun ⟨_, t⟩ => keepsProgram_ok <|
      accUpdate_sameProgram _ _ _ (setW (dspW xd) _ t)

theorem divideResult_sameProgram (s : State) : SameProgram s (divideResult s) := by
  unfold divideResult
  split
  · exact ⟨rfl, rfl⟩
  · simp only
    split
    · exact ⟨rfl, rfl⟩
    · split <;> exact ⟨rfl, rfl⟩

theorem divStep_sameProgram (k : DivKind) (m n : WReg) (s : State) :
    SameProgram s (divStep k m n s) := by
  have hrun (d : Option DivRecord) : SameProgram s (setFreeFlags (divideResult { s with dv := d })) :=
    divideResult_sameProgram { s with dv := d }
  unfold divStep
  split
  · split
    · exact ⟨rfl, rfl⟩
    · exact hrun _
  · exact hrun _

theorem divideWord_keeps {k : DivKind} {t v n : WReg} {s : State} :
    KeepsState s (divideWord k t v n s) := by
  refine keepsProgram_check fun _ => ?_
  split
  · exact keepsProgram_ok (divStep_sameProgram k v n s)
  · exact keepsProgram_error

theorem divideDouble_keeps {k : DivKind} {t v n : WReg} {s : State} :
    KeepsState s (divideDouble k t v n s) := by
  refine keepsProgram_check fun _ => keepsProgram_check fun _ => ?_
  split
  · exact keepsProgram_ok (divStep_sameProgram k v n s)
  · exact keepsProgram_error

/-! ### The other meanings -/

theorem fileResult_keeps {sz : Size} {d : FileDest} {a v : Word} {s : State} :
    KeepsState s (fileResult sz d a v s) := by
  cases d with
  | wreg => exact keepsProgram_ok (setWSized_sameProgram sz 0#4 v s)
  | file => exact memWrite_keeps

theorem setFileProduct_sameProgram (sz : Size) (p : BitVec 32) (s : State) :
    SameProgram s (setFileProduct sz p s) := by
  cases sz <;> exact ⟨rfl, rfl⟩

theorem multiply_keeps {sb sm' : Bool} {wb wd : WReg} {sm : Mode} {ws : WReg} {s : State} :
    KeepsState s (multiply sb sm' wb wd sm ws s) :=
  keepsProgram_check fun _ => srcOperand_keeps.bind fun _ => keepsProgram_ok ⟨rfl, rfl⟩

theorem saveLoop_sameProgram (s : State) : SameProgram s (saveLoop s) := by
  unfold saveLoop; split <;> exact ⟨rfl, rfl⟩

theorem startDo_keeps {c : BitVec 14} {n : BitVec 16} {s : State} :
    KeepsState s (startDo c n s) := by
  simp only [startDo]
  split
  · exact keepsProgram_error
  · split
    · exact keepsProgram_error
    · split
      · exact keepsProgram_error
      · exact keepsProgram_ok (saveLoop_sameProgram s)

/-! ### Instructions -/

/-- An outcome's next state, if there is one, has the program of `s`. -/
def KeepsNext (s : State) (o : Host.Outcome State Fault Refusal) : Prop :=
  ∀ t, o = .next t → SameProgram s t

theorem keepsNext_next {s t : State} (h : SameProgram s t) : KeepsNext s (.next t) := by
  intro u hu; cases hu; exact h

/-- The reset of R445 keeps the program too (R403, R470). -/
theorem keepsNext_finish {s : State} {x : Except Stop State} (h : KeepsState s x) :
    KeepsNext s (finish s x) := by
  intro t ht
  rcases finish_next ht with ⟨hx, -⟩ | ⟨-, rfl⟩
  · exact h t hx
  · exact ⟨rfl, rfl⟩

/-- No instruction changes program memory or the device. -/
theorem exec_keepsNext (i : Instr) (s : State) : KeepsNext s (exec i s) := by
  cases i with
  | movLit16Wnd | pushS | popS | asrLit | lsrLit | slLit | goto | bra | nop | repeatLit | disi
  | pwrsv | reset => exact keepsNext_next ⟨rfl, rfl⟩
  | movWsWd =>
    exact keepsNext_finish <| keepsProgram_check fun _ => keepsProgram_check fun _ =>
      srcOperand_keeps.bind fun _ => dstOperand_keeps.bind fun _ => keepsProgram_ok ⟨rfl, rfl⟩
  | movFWnd | btsc =>
    exact keepsNext_finish <| memRead_keeps.bind fun _ => keepsProgram_ok ⟨rfl, rfl⟩
  | movWregF =>
    exact keepsNext_finish <| memWrite_keeps.bind fun _ => keepsProgram_ok ⟨rfl, rfl⟩
  | movdLoad =>
    exact keepsNext_finish <| srcDouble_keeps.bind fun _ => keepsProgram_ok ⟨rfl, rfl⟩
  | movdStore =>
    exact keepsNext_finish <| dstDouble_keeps.bind fun _ => keepsProgram_ok ⟨rfl, rfl⟩
  | lnk => exact keepsNext_finish <| push_keeps.bind fun _ => keepsProgram_ok ⟨rfl, rfl⟩
  | ulnk =>
    exact keepsNext_finish <| SameProgram.keeps (t := setW 15#4 (getW 14#4 s) s) ⟨rfl, rfl⟩ <|
      pop_keeps.bind fun _ => keepsProgram_ok ⟨rfl, rfl⟩
  | se | ze =>
    exact keepsNext_finish <| srcOperand_keeps.bind fun _ => keepsProgram_ok ⟨rfl, rfl⟩
  | addWbWsWd sz wb =>
    exact keepsNext_finish <| srcOperand_keeps.bind fun ⟨m, t⟩ =>
      SameProgram.keeps (t := setAddFlags sz (narrow sz (getW wb s)) m t) ⟨rfl, rfl⟩ <|
      dstOperand_keeps.bind fun _ => keepsProgram_ok ⟨rfl, rfl⟩
  | addF sz =>
    exact keepsNext_finish <| memRead_keeps.bind fun ⟨m, t⟩ =>
      SameProgram.keeps (t := setAddFlags sz (narrow sz (getW 0#4 s)) m t) ⟨rfl, rfl⟩ <|
      fileResult_keeps.bind fun _ => keepsProgram_ok ⟨rfl, rfl⟩
  | bset =>
    exact keepsNext_finish <| memRead_keeps.bind fun _ => memWrite_keeps.bind fun _ =>
      keepsProgram_ok ⟨rfl, rfl⟩
  | asrReg | lsrReg | slReg =>
    exact keepsNext_finish <| keepsProgram_check fun _ => keepsProgram_ok ⟨rfl, rfl⟩
  | mulUU | mulUS | mulSU | mulSS => exact keepsNext_finish multiply_keeps
  | mulF =>
    exact keepsNext_finish <| memRead_keeps.bind fun _ =>
      keepsProgram_ok (setFileProduct_sameProgram ..)
  | mac | macSquare | msc | mpy | mpySquare | mpyN => exact keepsNext_finish multiplyAcc_keeps
  | ed | edac => exact keepsNext_finish distance_keeps
  | addAcc a =>
    refine keepsNext_finish (keepsProgram_ok ?_)
    exact accUpdate_sameProgram a _ s s
  | addWsAcc | lac =>
    exact keepsNext_finish <| srcMov_keeps.bind fun _ =>
      keepsProgram_ok (accUpdate_sameProgram ..)
  | sac | sacR =>
    exact keepsNext_finish <| dstMov_keeps.bind fun _ => keepsProgram_ok ⟨rfl, rfl⟩
  | sftacLit => exact keepsNext_finish <| keepsProgram_ok (shiftAcc_sameProgram ..)
  | sftacReg =>
    refine keepsNext_finish ?_
    split
    · exact keepsProgram_error
    · exact keepsProgram_ok (shiftAcc_sameProgram ..)
  | divSW | divUW | divF => exact keepsNext_finish divideWord_keeps
  | divSD | divUD => exact keepsNext_finish divideDouble_keeps
  | call | rcall =>
    exact keepsNext_finish <| pushReturn_keeps.bind fun _ => keepsProgram_ok ⟨rfl, rfl⟩
  | ret => exact keepsNext_finish popReturn_keeps
  | retlw =>
    refine keepsNext_finish ?_
    split
    · exact keepsProgram_error
    · exact popReturn_keeps.bind fun _ => keepsProgram_ok (setWSized_sameProgram ..)
  | retfie => exact keepsNext_finish returnFromException_keeps
  | repeatReg =>
    refine keepsNext_finish ?_
    split
    · exact keepsProgram_ok ⟨rfl, rfl⟩
    · exact keepsProgram_error
  | doLit | doReg => exact keepsNext_finish startDo_keeps
  | tblrdl | tblrdh | tblwtl | tblwth => intro t ht; cases ht

/-! ### The rules of the step around an instruction -/

theorem repeatRule_sameProgram (i : Instr) (s t : State) :
    SameProgram t (repeatRule i s t) := by
  have hc : SameProgram t (clearFresh i t) := by
    unfold clearFresh; split <;> exact ⟨rfl, rfl⟩
  simp only [repeatRule]
  split
  · exact hc
  · split <;> exact hc

theorem endLoop_sameProgram {a : PAddr} {t u : State} (h : endLoop a t = .ok u) :
    SameProgram t u := by
  simp only [endLoop] at h
  split at h
  · split at h
    · cases h
    · cases h; exact ⟨rfl, rfl⟩
  · cases h; exact ⟨rfl, rfl⟩

theorem loopDecision_sameProgram {a : PAddr} {t u : State} (h : loopDecision a t = .ok u) :
    SameProgram t u := by
  unfold loopDecision at h
  split at h
  · exact endLoop_sameProgram h
  · cases h; exact ⟨rfl, rfl⟩

theorem doRule_sameProgram {i : Instr} {s t u : State} (h : doRule i s t = .ok u) :
    SameProgram t u := by
  unfold doRule at h
  split at h
  · split at h
    · cases h
    · split at h
      · exact loopDecision_sameProgram h
      · cases h; exact .refl t
  · cases h; exact .refl t

theorem countDisi_sameProgram (i : Instr) (s t u : State) :
    SameProgram u (countDisi i s t u) := by
  rw [countDisi_like]; exact ⟨rfl, rfl⟩

theorem complete_sameProgram {i : Instr} {s t u : State} (h : complete i s t = .ok u) :
    SameProgram t u := by
  unfold complete at h
  split at h
  · cases h; exact .refl t
  · obtain ⟨v, hv, h⟩ := bind_ok h
    simp only at h
    split at h
    · cases h
    · cases h
      exact (repeatRule_sameProgram i s t).trans <| (doRule_sameProgram hv).trans <|
        countDisi_sameProgram i s t { v with edt := ageEdt v.edt }

theorem runInstr_keepsNext (i : Instr) (s : State) : KeepsNext s (runInstr i s) := by
  intro u hu
  simp only [runInstr] at hu
  split at hu
  · cases hu
  · split at hu
    · next t ht =>
      split at hu
      · next v hv =>
        cases hu
        exact (exec_keepsNext i (resumeTarget s) t ht).trans (complete_sameProgram hv)
      · cases hu
    · cases hu
    · cases hu

theorem pendingTrap_sameProgram {s t : State} {e : Exception} (h : pendingTrap s = some (e, t)) :
    SameProgram s t := by
  unfold pendingTrap at h
  split at h
  · split at h
    · cases h; exact .refl s
    · split at h <;> cases h <;> exact ⟨rfl, rfl⟩
  · split at h
    · cases h; exact .refl s
    · split at h <;> cases h
      exact .refl s

theorem acceptedIrq_sameProgram {b : Boundary} {s t : State} {e : Exception}
    (h : acceptedIrq b s = some (e, t)) : SameProgram s t := by
  unfold acceptedIrq at h
  split at h <;> cases h <;> exact ⟨rfl, rfl⟩

theorem acceptedException_sameProgram {b : Boundary} {s t : State} {e : Exception}
    (h : acceptedException b s = some (e, t)) : SameProgram s t := by
  unfold acceptedException at h
  split at h
  · next _ he => cases h; exact pendingTrap_sameProgram he
  · exact acceptedIrq_sameProgram h

theorem entryDisi_sameProgram (s : State) : SameProgram s (entryDisi s) := by
  unfold entryDisi; split <;> exact ⟨rfl, rfl⟩

theorem enterLevel_sameProgram (e : Exception) (s : State) : SameProgram s (enterLevel e s) := by
  cases e <;> exact ⟨rfl, rfl⟩

theorem takeException_keeps {e : Exception} {s : State} : KeepsState s (takeException e s) := by
  have hstart : SameProgram s (setRa false (holdTarget (clearPending e s))) := by
    rw [holdTarget_eq]
    cases e <;> exact ⟨rfl, rfl⟩
  exact hstart.keeps <| push_keeps.bind fun _ => push_keeps.bind fun t => keepsProgram_ok <|
    (enterLevel_sameProgram e t).trans (entryDisi_sameProgram (setPc _ (enterLevel e t)))

/-- A step keeps the program in each of its three forms: a reset, an exception entry, an instruction. -/
theorem step_keepsNext (s : State) : KeepsNext s (step s) := by
  intro t ht
  unfold step at ht
  split at ht
  · cases ht
  · split at ht
    · cases ht; exact ⟨rfl, rfl⟩
    · split at ht
      · next e u hu =>
        have h : SameProgram (openBoundary s) u := acceptedException_sameProgram hu
        exact h.trans (keepsNext_finish takeException_keeps t ht)
      · split at ht
        · cases ht
        · next i _ => exact runInstr_keepsNext i (openBoundary s) t ht

/-- Settles O6: every form of a step keeps the program and the device, an instruction by one case for
each constructor. -/
theorem program_constant : Obligations.program_constant :=
  step_keepsNext

/-! ## How a step is made -/

/-- The fetch, where the words at the pc decode (R110, R148). -/
theorem fetch_of_decode {s : State} {w : PWord} {i : Instr} (hw : progRead s.pc s = some w)
    (hi : decode w (progRead (ahead 1 s.pc) s) = .ok i) : fetch s = .ok i := by
  simp only [fetch, instrAt, hw, hi]

/-- A step at which nothing is presented and no trap is pending runs the instruction fetched (R10). -/
theorem step_of_fetch {s : State} {i : Instr} (hp : s.power = .run)
    (hr : (presented s).reset = false)
    (he : acceptedException (presented s) (openBoundary s) = none)
    (hf : fetch (openBoundary s) = .ok i) : step s = runInstr i (openBoundary s) := by
  simp [step, hp, hr, he, hf]

/-- An instruction that R366 does not refuse runs its own rule and then what follows it. -/
theorem runInstr_of_preCheck {i : Instr} {s : State} (h : preCheck i (resumeTarget s) = none) :
    runInstr i s = match exec i (resumeTarget s) with
      | .next t => (match complete i (resumeTarget s) t with
        | .ok u => .next u
        | .error r => .refused r)
      | .fault f => .fault f
      | .refused r => .refused r := by
  simp only [runInstr, h] <;> rfl

/-- Settles O7: opening the boundary changes neither the pc nor program memory, so the words at the pc
are those fetched. -/
theorem step_runs_decoded : Obligations.step_runs_decoded := by
  intro s w i hp hr he hw hi v hv
  have hf : fetch (openBoundary s) = .ok i := fetch_of_decode (s := openBoundary s) hw hi
  rw [step_of_fetch hp hr he hf]
  exact runInstr_of_preCheck hv

/-! ## Forms and situations the rules exclude

Each lemma gives the refusal of one check; an instruction's refusal follows by the order in which its
rule makes its checks. -/

/-! ### Operand forms -/

theorem requireEven_odd {n : WReg} (h : n.isEven = false) :
    requireEven n = .error (.refused .oddPair) := by
  simp [requireEven, h]

theorem requireEven_even {n : WReg} (h : n.isEven = true) : requireEven n = .ok () := by
  simp [requireEven, h]

theorem multiply_odd {wd : WReg} (h : wd.isEven = false) (sb sm' : Bool) (wb : WReg) (sm : Mode)
    (ws : WReg) (s : State) : multiply sb sm' wb wd sm ws s = .error (.refused .oddPair) := by
  simp [multiply, requireEven_odd h]

/-- An odd pair of a multiply (R230). -/
theorem mul_odd_refused {wd : WReg} (h : wd.isEven = false) (wb : WReg) (m : Mode) (ws : WReg)
    (s : State) :
    exec (.mulUU wb wd m ws) s = .refused .oddPair
      ∧ exec (.mulSS wb wd m ws) s = .refused .oddPair
      ∧ exec (.mulSU wb wd m ws) s = .refused .oddPair
      ∧ exec (.mulUS wb wd m ws) s = .refused .oddPair := by
  simp [exec, execMulUU, execMulSS, execMulSU, execMulUS, multiply_odd h]

/-- An odd pair of a MOV.D (R170, R171). -/
theorem movd_odd_refused {ws : WReg} (h : ws.isEven = false) (wd : BitVec 3) (s : State) :
    exec (.movdLoad wd .direct ws) s = .refused .oddPair
      ∧ exec (.movdStore .direct ws wd) s = .refused .oddPair := by
  simp [exec, execMovdLoad, execMovdStore, srcDouble, dstDouble, requireEven_odd h]

theorem requireDivisor_low {n : WReg} (h : n = 0#4 ∨ n = 1#4) :
    requireDivisor n = .error (.refused .divisorRegister) := by
  simp [requireDivisor, h]

theorem requireDivisor_other {n : WReg} (h0 : n ≠ 0#4) (h1 : n ≠ 1#4) :
    requireDivisor n = .ok () := by
  simp [requireDivisor, h0, h1]

/-- A divisor in W0 or W1 (R301). -/
theorem div_divisor_refused {n : WReg} (h : n = 0#4 ∨ n = 1#4) (t m : WReg) (s : State) :
    exec (.divSW t m n) s = .refused .divisorRegister
      ∧ exec (.divUW t m n) s = .refused .divisorRegister
      ∧ exec (.divSD t m n) s = .refused .divisorRegister
      ∧ exec (.divUD t m n) s = .refused .divisorRegister
      ∧ exec (.divF m n) s = .refused .divisorRegister := by
  simp [exec, execDivSW, execDivUW, execDivSD, execDivUD, execDivF, divideWord, divideDouble,
    requireDivisor_low h]

/-- A field `t` that is not 0 beside a 16-bit dividend (log entry 53). -/
theorem divWord_field_refused {t n : WReg} (h0 : n ≠ 0#4) (h1 : n ≠ 1#4) (ht : t ≠ 0#4) (m : WReg)
    (s : State) :
    exec (.divSW t m n) s = .refused .dividendField
      ∧ exec (.divUW t m n) s = .refused .dividendField := by
  simp [exec, execDivSW, execDivUW, divideWord, requireDivisor_other h0 h1, ht]

/-- A 32-bit dividend that starts at an odd register (R301, log entry 53). -/
theorem divDouble_odd_refused {m n : WReg} (h0 : n ≠ 0#4) (h1 : n ≠ 1#4) (hm : m.isEven = false)
    (t : WReg) (s : State) :
    exec (.divSD t m n) s = .refused .oddPair ∧ exec (.divUD t m n) s = .refused .oddPair := by
  simp [exec, execDivSD, execDivUD, divideDouble, requireDivisor_other h0 h1, requireEven_odd hm]

/-- A field `t` that does not name the upper register of a 32-bit dividend (log entry 53). -/
theorem divDouble_field_refused {t m n : WReg} (h0 : n ≠ 0#4) (h1 : n ≠ 1#4)
    (hm : m.isEven = true) (ht : t ≠ m + 1#4) (s : State) :
    exec (.divSD t m n) s = .refused .dividendField
      ∧ exec (.divUD t m n) s = .refused .dividendField := by
  simp [exec, execDivSD, execDivUD, divideDouble, requireDivisor_other h0 h1, requireEven_even hm,
    ht]

theorem retlw_stack_refused (sz : Size) (lit : BitVec 10) (s : State) :
    exec (.retlw sz lit 15#4) s = .refused .retlwStack := rfl

/-- A count of more than 14 bits has one of the two bits that R363 wants clear (D17). -/
theorem repeatReg_large_refused {wn : WReg} {s : State} (h : 2 ^ 14 ≤ (getW wn s).toNat) :
    exec (.repeatReg wn) s = .refused .repeatCount := by
  have hbits : (getW wn s).extractLsb' 14 2 ≠ 0#2 := by
    intro e
    have := congrArg BitVec.toNat e
    simp only [BitVec.extractLsb'_toNat, BitVec.toNat_ofNat] at this
    have := (getW wn s).isLt
    omega
  simp [exec, execRepeatReg, hbits]

theorem multiplyAcc_twice (f : Int → Int → Int) (wm wn : WReg) (a : AccId) (xd : DspReg)
    (x y : PreAccess) (b : WriteBack) (s : State) :
    multiplyAcc f wm wn a xd xd (some x) (some y) b s = .error (.refused .prefetchTwice) := by
  simp [multiplyAcc, requireDistinct]

/-- Two prefetches into one register (R266). -/
theorem prefetch_twice_refused (m : MulPair) (r : DspReg) (a : AccId) (xd : DspReg)
    (x y : PreAccess) (b : WriteBack) (s : State) :
    exec (.mac m a xd xd (some x) (some y) b) s = .refused .prefetchTwice
      ∧ exec (.msc m a xd xd (some x) (some y) b) s = .refused .prefetchTwice
      ∧ exec (.mpy m a xd xd (some x) (some y)) s = .refused .prefetchTwice
      ∧ exec (.mpyN m a xd xd (some x) (some y)) s = .refused .prefetchTwice
      ∧ exec (.macSquare r a xd xd (some x) (some y)) s = .refused .prefetchTwice
      ∧ exec (.mpySquare r a xd xd (some x) (some y)) s = .refused .prefetchTwice := by
  simp [exec, execMac, execMsc, execMpy, execMpyN, execMacSquare, execMpySquare, multiplyAcc_twice]

/-- The register offset form as a source or a destination: MOV looks at both forms before it evaluates
either operand (R5, G2, log entry 10). -/
theorem registerOffset_refused (sz : Size) (wb wd ws : WReg) (dm sm : MovMode) (a : AccId)
    (sh : BitVec 4) (s : State) :
    exec (.movWsWd sz wb dm wd .offset ws) s = .refused .registerOffset
      ∧ exec (.movWsWd sz wb .offset wd sm ws) s = .refused .registerOffset
      ∧ exec (.addWsAcc a wb sh .offset ws) s = .refused .registerOffset
      ∧ exec (.lac a wb sh .offset ws) s = .refused .registerOffset
      ∧ exec (.sac a wb sh .offset wd) s = .refused .registerOffset
      ∧ exec (.sacR a wb sh .offset wd) s = .refused .registerOffset := by
  have hdest : exec (.movWsWd sz wb .offset wd sm ws) s = .refused .registerOffset := by
    cases sm <;> rfl
  exact ⟨rfl, hdest, rfl, rfl, rfl, rfl⟩

/-! ### Addresses -/

/-- An address formed with modulo or bit-reversed addressing on (R103). -/
theorem useEA_modulo {role : Role} {n : WReg} {s : State} (hm : moduloOn s = true)
    (hi : isInit n s = true) : useEA role n s = .error (.refused .moduloAddressing) := by
  simp [useEA, pointerStop, hi, hm]

theorem moduloOn_iff (s : State) : moduloOn s = true ↔
    s.modcon.getLsbD 15 = true ∨ s.modcon.getLsbD 14 = true ∨ s.xbrev.getLsbD 15 = true := by
  simp [moduloOn, or_assoc]

/-- A source address from W15 in `s` would be refused for a write to SPLIM just before it (R490), and for
nothing else. -/
def SplimHazard (s : State) : Prop :=
  moduloOn s = false ∧ previously (fun e => e.access.wroteSplim) s = true

theorem SplimHazard.useEA_refused {s : State} (h : SplimHazard s) :
    useEA .source 15#4 s = .error (.refused .splimHazard) := by
  obtain ⟨hm, hp⟩ := h
  simp [useEA, pointerStop, isInit, hm, hp]

theorem SplimHazard.after_movePtr {s : State} (h : SplimHazard s) (role : Role) (n : WReg) (d : Int) :
    SplimHazard (movePtr role n d s) := by
  simp only [movePtr]
  split <;> split <;> exact h

theorem SplimHazard.after_stepPtr {s : State} (h : SplimHazard s) (role : Role) (n : WReg) (d : Int) :
    SplimHazard (stepPtr role n d s) := by
  unfold stepPtr
  split
  · exact h
  · exact h.after_movePtr role n d

theorem SplimHazard.pop_refused {s : State} (h : SplimHazard s) :
    pop s = .error (.refused .splimHazard) := by
  simp [pop, (h.after_movePtr .source 15#4 (-2)).useEA_refused]

theorem SplimHazard.srcOperand_refused {s : State} (h : SplimHazard s) (sz : Size) {m : Mode}
    (hm : m ≠ .direct) : srcOperand sz m 15#4 s = .error (.refused .splimHazard) := by
  simp [srcOperand, hm, operandEA, (h.after_stepPtr .source 15#4 _).useEA_refused]

/-- A read through W15 right after a write to SPLIM: by a MOV, by each return, by ULNK (R490). -/
theorem SplimHazard.exec_refused {s : State} (h : SplimHazard s) :
    (∀ (sz : Size) (wb wd : WReg) (dm m : Mode), m ≠ .direct →
      exec (.movWsWd sz wb (.plain dm) wd (.plain m) 15#4) s = .refused .splimHazard)
    ∧ exec .ret s = .refused .splimHazard ∧ exec .retfie s = .refused .splimHazard
    ∧ exec .ulnk s = .refused .splimHazard
    ∧ ∀ (sz : Size) (lit : BitVec 10) (wd : WReg), wd ≠ 15#4 →
      exec (.retlw sz lit wd) s = .refused .splimHazard := by
  have hulnk : SplimHazard (setW 15#4 (getW 14#4 s) s) := h
  refine ⟨fun sz wb wd dm m hm => ?_, ?_, ?_, ?_, fun sz lit wd hwd => ?_⟩
  · simp [exec, execMovWsWd, plainMode, h.srcOperand_refused sz hm]
  · simp [exec, execRet, popReturn, h.pop_refused]
  · simp [exec, execRetfie, returnFromException, h.pop_refused]
  · simp [exec, execUlnk, hulnk.pop_refused]
  · simp [exec, execRetlw, hwd, popReturn, h.pop_refused]

/-! ### DOEND -/

/-- DOEND has been written just before, by a DO or as data (R493). -/
def DoendHazard (s : State) : Prop :=
  previously (fun e => e.access.wroteDoend || isDo e.instr) s = true

theorem previously_cons (p : Executed → Bool) {s : State} {e : Executed} {r : List Executed}
    (h : s.hist = e :: r) : previously p s = p e := by
  simp [previously, h]

/-- An aligned read of either word of DOEND (R493). -/
theorem DoendHazard.memRead_refused {s : State} (h : DoendHazard s) {sz : Size} {a : Word}
    (ha : misaligned sz a = false) (hlt : a < 0x0080#16)
    (hreg : coreRegAt a = .doendL ∨ coreRegAt a = .doendH) :
    memRead sz a s = .error (.refused .doendRead) := by
  have hcore : regionOf sz a s = .core := by simp [regionOf, hlt]
  have hread : readHazard sz a s = some .doendRead := by
    unfold readHazard
    rcases hreg with hr | hr <;> rw [hr] <;> exact if_pos h
  simp [memRead, ha, hcore, hread]

/-- The four bytes of DOEND (R60). -/
theorem coreRegAt_doend {a : Word} (hlo : 0x003E#16 ≤ a) (hhi : a ≤ 0x0041#16) :
    coreRegAt a = .doendL ∨ coreRegAt a = .doendH := by
  have ha : a = 0x3E#16 ∨ a = 0x3F#16 ∨ a = 0x40#16 ∨ a = 0x41#16 := by bv_omega
  rcases ha with rfl | rfl | rfl | rfl
  · exact .inl rfl
  · exact .inl rfl
  · exact .inr rfl
  · exact .inr rfl

/-! ### Traps (R457) -/

/-- A push that raises StackError at its level or above. -/
theorem push_nested_refused {s : State} (hl : stackLevel s ≤ cpuLevel s)
    (hs : s.stackPending = false) (hm : pushMade s = true) (ht : pushTraps s = true)
    (wb ws : WReg) :
    exec (.movWsWd .word wb (.plain .postInc) 15#4 (.plain .direct) ws) s
      = .refused .trapNested := by
  obtain ⟨c, hpush⟩ := push_made (v := narrow .word (getW ws s)) hm
  rw [push_eq, ht] at hpush
  have hnested (u : State) :
      trapNested s (advance 1 ((u.orStack true).at' c s.draws)) = true := by
    simp [trapNested, State.orStack, State.at', hs, hl]
  simp [exec, execMovWsWd, plainMode, srcOperand, hpush, finish, hnested]

/-- A SFTAC that raises ArithmeticError at its level or above: an amount beyond 16 bits (R285). -/
theorem sftac_nested_refused {s : State} (hl : arithLevel s ≤ cpuLevel s)
    (ha : s.arithPending = false) {lit : BitVec 6} (hk : lit.toInt < -16 ∨ 16 < lit.toInt)
    (a : AccId) : exec (.sftacLit a lit) s = .refused .trapNested := by
  have hnested : trapNested s (advance 1 (raiseArith s)) = true := by
    simp [trapNested, ha, hl]
  simp [exec, execSftacLit, shiftAcc, hk, finish, hnested]

/-- Settles O57: the refusals above, in the order of the statement. -/
theorem excluded_forms : Obligations.excluded_forms := by
  intro s
  refine ⟨fun wb wd m ws h => mul_odd_refused h wb m ws s,
    fun wd ws h => movd_odd_refused h wd s,
    fun t m n h => div_divisor_refused h t m s,
    fun t m n h0 h1 => ⟨fun ht => divWord_field_refused h0 h1 ht m s,
      fun hm => divDouble_odd_refused h0 h1 hm t s,
      fun hm ht => divDouble_field_refused h0 h1 hm ht s⟩,
    fun sz lit => retlw_stack_refused sz lit s,
    fun wn h => repeatReg_large_refused h,
    fun m r a xd x y b => prefetch_twice_refused m r a xd x y b s,
    fun sz wb wd ws dm sm a sh => registerOffset_refused sz wb wd ws dm sm a sh s,
    fun h role n hi => useEA_modulo ((moduloOn_iff s).2 h) hi,
    fun hm e r he hw => ?splim,
    fun e r he hd => ?doend,
    fun hl hs hm ht wb ws => push_nested_refused hl hs hm ht wb ws,
    fun hl ha a lit hk => sftac_nested_refused hl ha hk a⟩
  case splim =>
    have h : SplimHazard s := ⟨hm, by rw [previously_cons _ he]; exact hw⟩
    exact h.exec_refused
  case doend =>
    have h : DoendHazard s := by
      rw [DoendHazard, previously_cons _ he, Bool.or_eq_true]; exact hd.symm
    refine ⟨h.memRead_refused rfl (by decide) (.inl rfl), h.memRead_refused rfl (by decide) (.inr rfl),
      fun a hlo hhi => h.memRead_refused rfl ?_ (coreRegAt_doend hlo hhi)⟩
    bv_omega

end Sys2Proof.Machine

/-! Proofs of the statements about the machine's state: what every step keeps, what a reset leaves, and the
registers through their data addresses. -/

namespace Sys2Proof.Machine

/-! ## The invariant (R24, R31, R45, R54 to R56, R307)

`Inv` reads few fields, so most updates keep it because they touch none of them; what is left to prove are the
writes of those fields. -/

/-- The part of the state that `Inv` speaks of. -/
def invPart (s : State) :=
  (s.ram, getW 15#4 s, s.pc, s.splim, s.loop.start, s.loop.stop, s.loopShadow.start,
    s.loopShadow.stop, s.xmodsrt, s.ymodsrt, s.xmodend, s.ymodend, s.modcon, s.dv, s.hist.length)

/-- A state that agrees on that part has the invariant too. -/
theorem Inv.same {s t : State} (h : Inv s) (e : invPart t = invPart s) : Inv t := by
  simp only [invPart, Prod.mk.injEq] at e
  obtain ⟨hram, hw, hpc, hsplim, hstart, hstop, hstart', hstop', hxs, hys, hxe, hye, hmod, hdv,
    hhist⟩ := e
  obtain ⟨memory, fixed, modcon, divide, history⟩ := h
  refine ⟨hram ▸ memory, ?_, ?_, ?_, hhist ▸ history⟩
  · rw [FixedBits, hw, hpc, hsplim, hstart, hstop, hstart', hstop', hxs, hys, hxe, hye]
    exact fixed
  · rw [ModconImplemented, hmod]; exact modcon
  · rw [DivideUnderWay, hdv]; exact divide

/-- Every field is the literal that `State.reset` gives it (R61, log entry 1). -/
theorem inv_reset : Inv State.reset :=
  ⟨Memory.wf_reset, ⟨rfl, rfl, rfl, rfl, rfl, rfl, rfl, rfl, rfl, rfl, rfl⟩, ⟨rfl, rfl⟩, trivial,
    Nat.zero_le 3⟩

theorem Inv.like {s t : State} (h : Inv s) (hl : Like s t) : Inv t :=
  h.same (by rw [hl]; rfl)

/-! ### Fixed bits -/

/-- The mask of the registers whose bit 0 is fixed to 0 (R24, R45, R54, R56). -/
theorem clear_bit0 (v : Word) : (v &&& 0xFFFE#16).getLsbD 0 = false := by simp

/-- That of the registers whose bit 0 is fixed to 1 (R56). -/
theorem set_bit0 (v : Word) : (v ||| 0x0001#16).getLsbD 0 = true := by simp

/-- Bit 0 of W15 is fixed to 0 (R24). -/
theorem fixedW_bit0 (v : Word) : (fixedW 15#4 v).getLsbD 0 = false := clear_bit0 v

/-- The bit 0 of an address put together from fields is that of the last one. -/
theorem append_bit0 {m n : Nat} (x : BitVec m) (y : BitVec n) (hn : 0 < n) :
    (x ++ y).getLsbD 0 = y.getLsbD 0 := by
  rw [BitVec.getLsbD_append, if_pos hn]

/-- The bit 0 of a sum of even addresses (R31). -/
theorem even_add_addr {a b : PAddr} (ha : a.getLsbD 0 = false) (hb : b.getLsbD 0 = false) :
    (a + b).getLsbD 0 = false := by
  simp only [BitVec.getLsbD, Nat.testBit_zero, decide_eq_false_iff_not, BitVec.toNat_add] at *
  omega

theorem ahead_even {a : PAddr} (n : Nat) (h : a.getLsbD 0 = false) :
    (ahead n a).getLsbD 0 = false := by
  refine even_add_addr h ?_
  simp only [BitVec.getLsbD, Nat.testBit_zero, decide_eq_false_iff_not, BitVec.toNat_ofNat]
  omega

theorem relativeTarget_even {a : PAddr} (n : BitVec 16) (h : a.getLsbD 0 = false) :
    (relativeTarget a n).getLsbD 0 = false :=
  even_add_addr (ahead_even 1 h) (append_bit0 _ _ (by decide))

theorem loopEnd_even {a : PAddr} (n : BitVec 16) (h : a.getLsbD 0 = false) :
    (loopEnd a n).getLsbD 0 = false :=
  even_add_addr h (append_bit0 _ _ (by decide))

theorem absoluteTarget_even (n1 : BitVec 15) (n2 : BitVec 7) :
    (absoluteTarget n1 n2).getLsbD 0 = false := append_bit0 _ _ (by decide)

theorem stackedPc_even (hi lo : Word) : (stackedPc hi lo).getLsbD 0 = false :=
  append_bit0 _ _ (by decide)

theorem vectorOf_even (e : Exception) (s : State) : (vectorOf e s).getLsbD 0 = false := by
  simp [vectorOf]

/-! ### The fields that `Inv` reads, each written -/

section Writes
variable {s : State}

theorem Inv.putW (h : Inv s) (n : WReg) (v : Word) : Inv (putW n v s) := by
  have hw : (getW 15#4 (Machine.putW n v s)).getLsbD 0 = false := by
    rw [getW_putW]
    split
    · next e => exact e ▸ fixedW_bit0 v
    · exact h.fixed.1
  exact ⟨h.memory, ⟨hw, h.fixed.2⟩, h.modcon, h.divide, h.history⟩

theorem Inv.setPc (h : Inv s) {a : PAddr} (ha : a.getLsbD 0 = false) : Inv (setPc a s) := by
  obtain ⟨hw, -, hrest⟩ := h.fixed
  exact ⟨h.memory, ⟨hw, ha, hrest⟩, h.modcon, h.divide, h.history⟩

theorem Inv.pc_even (h : Inv s) : s.pc.getLsbD 0 = false := h.fixed.2.1

theorem Inv.advance (h : Inv s) (n : Nat) : Inv (advance n s) := h.setPc (ahead_even n h.pc_even)

theorem Inv.setRam (h : Inv s) {m : Memory} (hm : Memory.wf m = true) : Inv { s with ram := m } :=
  ⟨hm, h.fixed, h.modcon, h.divide, h.history⟩

theorem Inv.setDv (h : Inv s) {d : Option DivRecord} (hd : DivideUnderWay { s with dv := d }) :
    Inv { s with dv := d } :=
  ⟨h.memory, h.fixed, h.modcon, hd, h.history⟩

/-- DO loop registers with even addresses (R54). -/
def DoRegs.Even (r : DoRegs) : Prop := r.start.getLsbD 0 = false ∧ r.stop.getLsbD 0 = false

theorem Inv.loop_even (h : Inv s) : s.loop.Even :=
  have ⟨_, _, _, hstart, hstop, _⟩ := h.fixed
  ⟨hstart, hstop⟩

theorem Inv.loopShadow_even (h : Inv s) : s.loopShadow.Even :=
  have ⟨_, _, _, _, _, hstart, hstop, _⟩ := h.fixed
  ⟨hstart, hstop⟩

theorem Inv.setLoop (h : Inv s) {r : DoRegs} (hr : r.Even) : Inv { s with loop := r } := by
  obtain ⟨hw, hpc, hsplim, -, -, hrest⟩ := h.fixed
  exact ⟨h.memory, ⟨hw, hpc, hsplim, hr.1, hr.2, hrest⟩, h.modcon, h.divide, h.history⟩

theorem Inv.setLoopShadow (h : Inv s) {r : DoRegs} (hr : r.Even) :
    Inv { s with loopShadow := r } := by
  obtain ⟨hw, hpc, hsplim, hstart, hstop, -, -, hrest⟩ := h.fixed
  exact ⟨h.memory, ⟨hw, hpc, hsplim, hstart, hstop, hr.1, hr.2, hrest⟩, h.modcon, h.divide,
    h.history⟩

theorem Inv.setW (h : Inv s) (n : WReg) (v : Word) : Inv (setW n v s) := (h.putW n v).same rfl

theorem Inv.setWSized (h : Inv s) (sz : Size) (n : WReg) (v : Word) : Inv (setWSized sz n v s) := by
  cases sz with
  | word => exact h.setW n v
  | byte => exact (h.putW n _).same rfl

theorem Inv.setPair (h : Inv s) (n : WReg) (v : BitVec 32) : Inv (setPair n v s) :=
  (h.setW n _).setW (n + 1#4) _

/-- A write to a core register keeps its fixed and its unimplemented bits (R24, R45, R54 to R56). -/
theorem Inv.writeReg (h : Inv s) (r : CoreReg) (wide : Bool) (v : Word) : Inv (writeReg r wide v s) := by
  obtain ⟨hw, hpc, hsplim, hstart, hstop, hstart', hstop', hxs, hys, hxe, hye⟩ := h.fixed
  cases r with
  | w n =>
    cases wide
    · exact (h.putW n v).same rfl
    · exact h.setW n v
  | accL x | accH x | accU x => cases x <;> exact h.same rfl
  | splim | xmodsrt | xmodend | ymodsrt | ymodend =>
    refine ⟨h.memory, ?_, h.modcon, h.divide, h.history⟩
    simp only [FixedBits, Machine.writeReg, getW_note, note_pc, note_splim, note_loop, note_loopShadow,
      note_xmodsrt, note_xmodend, note_ymodsrt, note_ymodend, clear_bit0, set_bit0, hpc, hsplim, hstart,
      hstop, hstart', hstop', hxs, hys, hxe, hye, and_self, and_true]
    exact hw
  | dostartL => exact h.setLoop ⟨(append_bit0 _ _ (by decide)).trans (clear_bit0 v), hstop⟩
  | dostartH => exact h.setLoop ⟨(append_bit0 _ _ (by decide)).trans (by simpa using hstart), hstop⟩
  | doendL => exact h.setLoop ⟨hstart, (append_bit0 _ _ (by decide)).trans (clear_bit0 v)⟩
  | doendH => exact h.setLoop ⟨hstart, (append_bit0 _ _ (by decide)).trans (by simpa using hstop)⟩
  | modcon =>
    exact ⟨h.memory, h.fixed, by simp [ModconImplemented, Machine.writeReg], h.divide, h.history⟩
  | _ => exact h.same rfl

theorem Inv.written (h : Inv s) (sz : Size) (a v : Word) : Inv (written sz a v s) := by
  unfold Machine.written
  cases regionOf sz a s with
  | core => exact h.writeReg ..
  | storage =>
    have hlow := Memory.wf_write h.memory a.toNat (v.extractLsb' 0 8)
    cases sz with
    | word => exact h.setRam (Memory.wf_write hlow _ _)
    | byte => exact h.setRam hlow
  | _ => exact h.same rfl

end Writes

/-! ### Operations that may stop -/

/-- Where the operation `x` answers, the state `g` finds in its answer has the invariant. -/
def GivesInv {α : Type} (g : α → State) (x : Except Stop α) : Prop := ∀ a, x = .ok a → Inv (g a)

/-- An operation that answers a state answers one with the invariant. -/
abbrev StateInv (x : Except Stop State) : Prop := GivesInv id x

/-- An operation that answers a value and a state answers a state with the invariant. -/
abbrev PairInv {α : Type} (x : Except Stop (α × State)) : Prop := GivesInv Prod.snd x

theorem givesInv_ok {α : Type} {g : α → State} {a : α} (h : Inv (g a)) : GivesInv g (.ok a) := by
  intro b hb; cases hb; exact h

theorem givesInv_error {α : Type} {g : α → State} {e : Stop} : GivesInv g (.error e) := by
  intro b hb; cases hb

/-- Two operations in turn. -/
theorem GivesInv.bind {α β : Type} {g : α → State} {f : β → State} {x : Except Stop α}
    {k : α → Except Stop β} (hx : GivesInv g x) (hk : ∀ a, Inv (g a) → GivesInv f (k a)) :
    GivesInv f (x >>= k) := by
  intro b hb
  obtain ⟨a, ha, hka⟩ := bind_ok hb
  exact hk a (hx a ha) b hka

/-- A check that answers no state, and then an operation. -/
theorem givesInv_check {α β : Type} {f : β → State} {x : Except Stop α} {k : α → Except Stop β}
    (hk : ∀ a, GivesInv f (k a)) : GivesInv f (x >>= k) := by
  intro b hb
  obtain ⟨a, -, hka⟩ := bind_ok hb
  exact hk a b hka

section Operations
variable {s : State}

theorem Inv.memRead (h : Inv s) {sz : Size} {a : Word} : PairInv (memRead sz a s) :=
  fun _ e => h.like (memRead_ok e).2.2

theorem Inv.memWrite (h : Inv s) {sz : Size} {a v : Word} : StateInv (memWrite sz a v s) :=
  fun _ e => (h.written sz a v).like (memWrite_ok e).2

theorem Inv.stackCheck (h : Inv s) (role : Role) (n : WReg) (ea : Word) :
    Inv (stackCheck role n ea s) := by
  unfold Machine.stackCheck; split <;> exact h.same rfl

theorem Inv.movePtr (h : Inv s) (role : Role) (n : WReg) (d : Int) : Inv (movePtr role n d s) := by
  have hu (t : State) (ht : Inv t) (v : Word) :
      Inv (if role = .dest then noteModified n (Machine.putW n v t) else Machine.putW n v t) := by
    split
    · exact (ht.putW n v).same rfl
    · exact ht.putW n v
  refine hu _ ?_ _
  split
  · exact h.same rfl
  · exact h

theorem Inv.stepPtr (h : Inv s) (role : Role) (n : WReg) (d : Int) : Inv (stepPtr role n d s) := by
  unfold Machine.stepPtr
  split
  · exact h
  · exact h.movePtr role n d

theorem Inv.useEA (h : Inv s) {role : Role} {n : WReg} : PairInv (useEA role n s) := by
  have hn : Inv (noteEA role n s) := h.same rfl
  unfold Machine.useEA
  split
  · exact givesInv_error
  · exact givesInv_ok (hn.stackCheck role n _)

theorem Inv.push (h : Inv s) {role : Role} {v : Word} : StateInv (push role v s) :=
  h.useEA.bind fun _ ht => (ht.movePtr role 15#4 2).memWrite

theorem Inv.pop (h : Inv s) : PairInv (pop s) :=
  (h.movePtr .source 15#4 (-2)).useEA.bind fun _ ht => ht.memRead

theorem Inv.pushReturn (h : Inv s) {ret : PAddr} : StateInv (pushReturn ret s) :=
  h.push.bind fun _ ht => ht.push

theorem Inv.popReturn (h : Inv s) : StateInv (popReturn s) :=
  h.pop.bind fun _ ht => ht.pop.bind fun _ hu => givesInv_ok (hu.setPc (stackedPc_even ..))

theorem Inv.returnFromException (h : Inv s) : StateInv (returnFromException s) :=
  h.pop.bind fun ⟨hi, _⟩ ht => ht.pop.bind fun ⟨_, u⟩ hu => givesInv_ok <|
    have hr : Inv (restoreStatus hi u) := Inv.same hu rfl
    hr.setPc (stackedPc_even ..)

/-! ### The operand forms -/

theorem Inv.operandEA (h : Inv s) {role : Role} {k : Nat} {m : Mode} {n : WReg} :
    PairInv (operandEA role k m n s) :=
  (h.stepPtr role n (preStep m * k)).useEA

theorem Inv.srcOperand (h : Inv s) {sz : Size} {m : Mode} {n : WReg} :
    PairInv (srcOperand sz m n s) := by
  unfold Machine.srcOperand
  split
  · exact givesInv_ok h
  · exact h.operandEA.bind fun _ ht => ht.memRead.bind fun _ hu =>
      givesInv_ok (hu.stepPtr ..)

theorem Inv.dstOperand (h : Inv s) {sz : Size} {m : Mode} {n : WReg} {v : Word} :
    StateInv (dstOperand sz m n v s) := by
  unfold Machine.dstOperand
  split
  · exact givesInv_ok (h.setWSized sz n v)
  · exact h.operandEA.bind fun _ ht => (ht.stepPtr ..).memWrite

theorem Inv.srcMov (h : Inv s) {sz : Size} {m : MovMode} {n : WReg} : PairInv (srcMov sz m n s) :=
  givesInv_check fun _ => h.srcOperand

theorem Inv.dstMov (h : Inv s) {sz : Size} {m : MovMode} {n : WReg} {v : Word} :
    StateInv (dstMov sz m n v s) :=
  givesInv_check fun _ => h.dstOperand

theorem Inv.srcDouble (h : Inv s) {m : Mode} {n : WReg} : PairInv (srcDouble m n s) := by
  unfold Machine.srcDouble
  split
  · exact givesInv_check fun _ => givesInv_ok h
  · exact h.operandEA.bind fun _ ht => ht.memRead.bind fun _ hu =>
      hu.memRead.bind fun _ hv => givesInv_ok (hv.stepPtr ..)

theorem Inv.dstDouble (h : Inv s) {m : Mode} {n : WReg} {v : BitVec 32} :
    StateInv (dstDouble m n v s) := by
  unfold Machine.dstDouble
  split
  · exact givesInv_check fun _ => givesInv_ok (h.setPair n v)
  · exact h.operandEA.bind fun _ ht =>
      (((ht.stackCheck ..).stepPtr ..).memWrite).bind fun _ hu => hu.memWrite

/-! ### The DSP engine -/

theorem Inv.prefetchEA (h : Inv s) {side : Side} {a : PreAccess} : PairInv (prefetchEA side a s) := by
  cases a with
  | modify p k => exact h.useEA
  | offset =>
    simp only [Machine.prefetchEA]
    split
    · exact h.useEA.bind fun _ ht => ht.useEA.bind fun _ hu => givesInv_ok hu
    · exact givesInv_error

theorem Inv.prefetchRead (h : Inv s) {side : Side} {ea : Word} : PairInv (prefetchRead side ea s) := by
  unfold Machine.prefetchRead
  split
  · exact h.memRead
  · exact givesInv_error

theorem Inv.prefetchMod (h : Inv s) (side : Side) (a : PreAccess) : Inv (prefetchMod side a s) := by
  cases a with
  | modify p k => exact h.stepPtr ..
  | offset => exact h

theorem Inv.prefetchOne (h : Inv s) {side : Side} {a : PreAccess} : PairInv (prefetchOne side a s) :=
  h.prefetchEA.bind fun _ ht => ht.prefetchRead.bind fun _ hu =>
    givesInv_ok (hu.prefetchMod ..)

theorem Inv.prefetchOptEA (h : Inv s) {side : Side} {a : Option PreAccess} :
    PairInv (prefetchOptEA side a s) := by
  cases a with
  | none => exact givesInv_ok h
  | some a => exact h.prefetchEA.bind fun _ ht => givesInv_ok ht

theorem Inv.prefetchOptRead (h : Inv s) {side : Side} {ea : Option Word} :
    PairInv (prefetchOptRead side ea s) := by
  cases ea with
  | none => exact givesInv_ok h
  | some ea => exact h.prefetchRead.bind fun _ ht => givesInv_ok ht

theorem Inv.prefetchOptMod (h : Inv s) (side : Side) (a : Option PreAccess) :
    Inv (prefetchOptMod side a s) := by
  cases a with
  | none => exact h
  | some a => exact h.prefetchMod side a

theorem Inv.setFetched (h : Inv s) (r : DspReg) (v : Option Word) : Inv (setFetched r v s) := by
  cases v with
  | none => exact h
  | some v => exact h.setW ..

theorem Inv.writeBackEA (h : Inv s) {b : WriteBack} : PairInv (writeBackEA b s) := by
  cases b with
  | none | w13 => exact givesInv_ok h
  | w13Inc => exact h.useEA

theorem Inv.writeBack (h : Inv s) {b : WriteBack} {ea v : Word} : StateInv (writeBack b ea v s) := by
  cases b with
  | none => exact givesInv_ok h
  | w13 => exact givesInv_ok (h.setW ..)
  | w13Inc => exact (h.movePtr ..).memWrite

theorem Inv.writeBackWins (h : Inv s) (b : WriteBack) (ea v : Word) :
    Inv (writeBackWins b ea v s) := by
  unfold Machine.writeBackWins; split <;> exact h.same rfl

theorem Inv.accUpdate (h : Inv s) (x : AccId) (r : Int) (m : State) : Inv (accUpdate x r m s) := by
  rw [accUpdate_eq]; cases x <;> exact h.same rfl

theorem Inv.shiftAcc (h : Inv s) (x : AccId) (k : Int) : Inv (shiftAcc x k s) := by
  refine Inv.advance ?_ 1
  split
  · exact h.same rfl
  · exact h.accUpdate ..

theorem Inv.dspMul (h : Inv s) (x y : Word) : Inv (dspMul x y s).2 := by
  unfold Machine.dspMul; split <;> exact h.same rfl

theorem Inv.multiplyAcc (h : Inv s) {f : Int → Int → Int} {wm wn : WReg} {x : AccId}
    {xd yd : DspReg} {px py : Option PreAccess} {b : WriteBack} :
    StateInv (multiplyAcc f wm wn x xd yd px py b s) :=
  have hm := h.dspMul (getW wm s) (getW wn s)
  givesInv_check fun _ =>
    hm.prefetchOptEA.bind fun _ h1 => h1.prefetchOptEA.bind fun _ h2 =>
    h2.writeBackEA.bind fun _ h3 => h3.prefetchOptRead.bind fun _ h4 =>
    h4.prefetchOptRead.bind fun _ h5 =>
    (((h5.prefetchOptMod ..).prefetchOptMod ..).writeBack).bind fun _ h6 => givesInv_ok <|
      ((((h6.setFetched ..).setFetched ..).accUpdate ..).writeBackWins ..).advance 1

theorem Inv.distance (h : Inv s) {f : Int → Int → Int} {m : DspReg} {x : AccId} {xd : DspReg}
    {px py : PreAccess} : StateInv (distance f m x xd px py s) :=
  have hm := h.dspMul (getW (dspW m) s) (getW (dspW m) s)
  hm.prefetchOne.bind fun _ h1 => h1.prefetchOne.bind fun _ h2 => givesInv_ok <|
    ((h2.setW ..).accUpdate ..).advance 1

/-! ### The divides -/

theorem Inv.freeResults (h : Inv s) : Inv (freeResults s) :=
  have hd : Inv { s with draws := s.draws + 2 } := h.same rfl
  (hd.setW 0#4 _).setW 1#4 _

/-- A divide's record within an execution, brought up to date: it counts the eighteenth one too (R307). -/
def DivRecord.InProgress (d : Option DivRecord) : Prop := ∀ r ∈ d, 1 ≤ r.iter ∧ r.iter ≤ 18

/-- The eighteenth execution clears the record, so that what is left has made 17 at most (R307). -/
theorem Inv.divideResult (h : Inv s) {d : Option DivRecord} (hd : DivRecord.InProgress d) :
    Inv (divideResult { s with dv := d }) := by
  have hnone : Inv { s with dv := none } := h.setDv trivial
  unfold Machine.divideResult
  cases d with
  | none => exact hnone.freeResults
  | some r =>
    obtain ⟨hlo, hhi⟩ := hd r rfl
    simp only
    split
    · exact (hnone.setW 0#4 _).setW 1#4 _
    · split
      · exact hnone.freeResults.same rfl
      · exact hnone.freeResults.same rfl |>.setDv ⟨hlo, by simp only; omega⟩

theorem DivRecord.inProgress_next (h : Inv s) (n : WReg) : DivRecord.InProgress (nextRecord n s) := by
  have hd := h.divide
  unfold DivideUnderWay at hd
  unfold nextRecord
  split
  · exact fun r hr => by cases hr
  · next r e =>
    rw [e] at hd
    split
    · rintro _ ⟨rfl⟩
      exact ⟨by simp, by simp only; omega⟩
    · exact fun r hr => by cases hr

theorem Inv.divStep (h : Inv s) (k : DivKind) (m n : WReg) : Inv (divStep k m n s) := by
  unfold Machine.divStep
  split
  · split
    · have hd : Inv { s with dv := none } := h.setDv trivial
      exact hd.freeResults.same rfl
    · refine (h.divideResult (d := some (startDivide k m n s)) ?_).same rfl
      rintro _ ⟨rfl⟩
      exact ⟨by simp [startDivide], by simp [startDivide]⟩
  · exact (h.divideResult (DivRecord.inProgress_next h n)).same rfl

theorem Inv.divideWord (h : Inv s) {k : DivKind} {t v n : WReg} :
    StateInv (divideWord k t v n s) := by
  refine givesInv_check fun _ => ?_
  split
  · exact givesInv_ok ((h.divStep k v n).advance 1)
  · exact givesInv_error

theorem Inv.divideDouble (h : Inv s) {k : DivKind} {t v n : WReg} :
    StateInv (divideDouble k t v n s) := by
  refine givesInv_check fun _ => givesInv_check fun _ => ?_
  split
  · exact givesInv_ok ((h.divStep k v n).advance 1)
  · exact givesInv_error

/-! ### The other meanings -/

theorem Inv.fileResult (h : Inv s) {sz : Size} {d : FileDest} {a v : Word} :
    StateInv (fileResult sz d a v s) := by
  cases d with
  | wreg => exact givesInv_ok (h.setWSized ..)
  | file => exact h.memWrite

theorem Inv.setFileProduct (h : Inv s) (sz : Size) (p : BitVec 32) : Inv (setFileProduct sz p s) := by
  cases sz with
  | word => exact h.setPair ..
  | byte => exact h.setW ..

theorem Inv.multiply (h : Inv s) {sb sm' : Bool} {wb wd : WReg} {sm : Mode} {ws : WReg} :
    StateInv (multiply sb sm' wb wd sm ws s) :=
  givesInv_check fun _ => h.srcOperand.bind fun _ ht => givesInv_ok ((ht.setPair ..).advance 1)

theorem Inv.shiftTo (h : Inv s) (wd : WReg) (v : Word) : Inv (shiftTo wd v s) :=
  have hs : Inv (setShiftFlags (fixedW wd v) (Machine.setW wd (fixedW wd v) s)) :=
    (h.setW wd _).same rfl
  hs.advance 1

theorem Inv.startRepeat (h : Inv s) (n : BitVec 14) : Inv (startRepeat n s) :=
  have hr : Inv { s with rcount := n, sr := { s.sr with ra := n != 0#14 }, rptFresh := true } :=
    h.same rfl
  hr.advance 1

theorem Inv.saveLoop (h : Inv s) : Inv (saveLoop s) := by
  unfold Machine.saveLoop
  split
  · exact h.setLoopShadow h.loop_even
  · have hd : Inv { s with draws := s.draws + 1 } := h.same rfl
    refine hd.setLoopShadow ?_
    split
    · exact h.loop_even
    · exact h.loopShadow_even

/-- A DO starts and ends its loop at even addresses (R372, D34). -/
theorem Inv.startDo (h : Inv s) {c : BitVec 14} {n : BitVec 16} : StateInv (startDo c n s) := by
  have hstart : (ahead 2 s.pc).getLsbD 0 = false := ahead_even 2 h.pc_even
  simp only [Machine.startDo]
  split
  · exact givesInv_error
  · split
    · exact givesInv_error
    · split
      · exact givesInv_error
      · have hl := h.saveLoop.setLoop (r := {
          start := (ahead 2 s.pc).setWidth 22
          stop := (loopEnd (ahead 2 s.pc) n).setWidth 22
          count := c }) ⟨by simpa using hstart, by simpa using loopEnd_even n hstart⟩
        refine givesInv_ok (Inv.advance ?_ 2)
        exact hl.same rfl

/-- The free values of a reset keep the fixed bits (R470, log entry 2). -/
theorem freeLoop_even (k : Nat) : (freeLoop k).Even := by simp [DoRegs.Even, freeLoop]

/-- `Inv` after a reset, of any state whose memory is canonical (R61, R470). -/
theorem Inv.deviceReset (h : Memory.wf s.ram = true) : Inv (deviceReset s) := by
  obtain ⟨hw, hpc, hsplim, -⟩ := inv_reset.fixed
  obtain ⟨hstart, hstop⟩ := freeLoop_even (s.draws + 6)
  obtain ⟨hstart', hstop'⟩ := freeLoop_even (s.draws + 11)
  exact ⟨h, ⟨hw, hpc, hsplim, hstart, hstop, hstart', hstop', clear_bit0 _, clear_bit0 _,
    set_bit0 _, set_bit0 _⟩,
    inv_reset.modcon, trivial, Nat.zero_le 3⟩

/-! ### Instructions -/

/-- An outcome's next state, if there is one, has the invariant. -/
def NextInv (o : Host.Outcome State Fault Refusal) : Prop := ∀ t, o = .next t → Inv t

theorem nextInv_next {t : State} (h : Inv t) : NextInv (.next t) := by
  intro u hu; cases hu; exact h

theorem Inv.finish (h : Inv s) {x : Except Stop State} (hx : StateInv x) : NextInv (finish s x) := by
  intro t ht
  rcases finish_next ht with ⟨e, -⟩ | ⟨-, rfl⟩
  · exact hx t e
  · exact .deviceReset h.memory

/-- No instruction breaks the invariant: one case for each constructor. -/
theorem Inv.exec (h : Inv s) (i : Instr) : NextInv (exec i s) := by
  cases i with
  | movWsWd =>
    exact h.finish <| givesInv_check fun _ => givesInv_check fun _ => h.srcOperand.bind fun _ ht =>
      ht.dstOperand.bind fun _ hu => givesInv_ok (hu.advance 1)
  | movFWnd =>
    exact h.finish <| h.memRead.bind fun _ ht => givesInv_ok ((ht.setW ..).advance 1)
  | movWregF => exact h.finish <| h.memWrite.bind fun _ ht => givesInv_ok (ht.advance 1)
  | movLit16Wnd => exact nextInv_next ((h.setW ..).advance 1)
  | movdLoad =>
    exact h.finish <| h.srcDouble.bind fun _ ht => givesInv_ok ((ht.setPair ..).advance 1)
  | movdStore => exact h.finish <| h.dstDouble.bind fun _ ht => givesInv_ok (ht.advance 1)
  | pushS =>
    have hs : Inv { s with shadow := shadowOf s } := h.same rfl
    exact nextInv_next (hs.advance 1)
  | popS =>
    have hw := (((h.setW 0#4 s.shadow.w0).setW 1#4 s.shadow.w1).setW 2#4 s.shadow.w2).setW 3#4
      s.shadow.w3
    refine nextInv_next (Inv.advance ?_ 1)
    exact hw.same rfl
  | lnk =>
    exact h.finish <| h.push.bind fun _ ht => givesInv_ok (((ht.setW ..).setW ..).advance 1)
  | ulnk =>
    exact h.finish <| (h.setW ..).pop.bind fun _ ht => givesInv_ok ((ht.setW ..).advance 1)
  | se | ze =>
    refine h.finish <| h.srcOperand.bind fun _ ht => givesInv_ok (Inv.advance ?_ 1)
    exact (ht.setW ..).same rfl
  | addWbWsWd sz wb =>
    refine h.finish <| h.srcOperand.bind fun ⟨m, t⟩ ht => ?_
    have hf : Inv (setAddFlags sz (narrow sz (getW wb s)) m t) := Inv.same ht rfl
    exact hf.dstOperand.bind fun _ hu => givesInv_ok (hu.advance 1)
  | addF sz =>
    refine h.finish <| h.memRead.bind fun ⟨m, t⟩ ht => ?_
    have hf : Inv (setAddFlags sz (narrow sz (getW 0#4 s)) m t) := Inv.same ht rfl
    exact hf.fileResult.bind fun _ hu => givesInv_ok (hu.advance 1)
  | bset =>
    exact h.finish <| h.memRead.bind fun _ ht => ht.memWrite.bind fun _ hu =>
      givesInv_ok (hu.advance 1)
  | btsc => exact h.finish <| h.memRead.bind fun _ ht => givesInv_ok (ht.advance _)
  | asrLit | lsrLit | slLit => exact nextInv_next (h.shiftTo ..)
  | asrReg | lsrReg | slReg =>
    exact h.finish <| givesInv_check fun _ => givesInv_ok (h.shiftTo ..)
  | mulUU | mulUS | mulSU | mulSS => exact h.finish h.multiply
  | mulF =>
    exact h.finish <| h.memRead.bind fun _ ht => givesInv_ok ((ht.setFileProduct ..).advance 1)
  | mac | macSquare | msc | mpy | mpySquare | mpyN => exact h.finish h.multiplyAcc
  | ed | edac => exact h.finish h.distance
  | addAcc => exact h.finish (givesInv_ok ((h.accUpdate ..).advance 1))
  | addWsAcc | lac =>
    exact h.finish <| h.srcMov.bind fun _ ht => givesInv_ok ((ht.accUpdate ..).advance 1)
  | sac | sacR => exact h.finish <| h.dstMov.bind fun _ ht => givesInv_ok (ht.advance 1)
  | sftacLit => exact h.finish (givesInv_ok (h.shiftAcc ..))
  | sftacReg =>
    refine h.finish ?_
    split
    · exact givesInv_error
    · exact givesInv_ok (h.shiftAcc ..)
  | divSW | divUW | divF => exact h.finish h.divideWord
  | divSD | divUD => exact h.finish h.divideDouble
  | call =>
    exact h.finish <| h.pushReturn.bind fun _ ht => givesInv_ok (ht.setPc (absoluteTarget_even ..))
  | rcall =>
    exact h.finish <| h.pushReturn.bind fun _ ht =>
      givesInv_ok (ht.setPc (relativeTarget_even _ h.pc_even))
  | goto => exact nextInv_next (h.setPc (absoluteTarget_even ..))
  | bra => exact nextInv_next (h.setPc (relativeTarget_even _ h.pc_even))
  | ret => exact h.finish h.popReturn
  | retlw =>
    refine h.finish ?_
    split
    · exact givesInv_error
    · exact h.popReturn.bind fun _ ht => givesInv_ok (ht.setWSized ..)
  | retfie => exact h.finish h.returnFromException
  | nop => exact nextInv_next (h.advance 1)
  | repeatLit => exact nextInv_next (h.startRepeat _)
  | repeatReg =>
    refine h.finish ?_
    split
    · exact givesInv_ok (h.startRepeat _)
    · exact givesInv_error
  | doLit | doReg => exact h.finish h.startDo
  | disi lit =>
    have hd : Inv (note (fun a => { a with wroteDisi := true }) { s with disicnt := lit }) :=
      h.same rfl
    exact nextInv_next (hd.advance 1)
  | pwrsv lit =>
    have hp : Inv { s with power := if lit = 0#1 then .sleep else .idle } := h.same rfl
    exact nextInv_next (hp.advance 1)
  | reset => exact nextInv_next (.deviceReset h.memory)
  | tblrdl | tblrdh | tblwtl | tblwth => intro t ht; cases ht

/-! ### The rules of the step around an instruction -/

/-- The REPEAT rule goes back to the address of its own instruction (R364). -/
theorem Inv.repeatRule (h : Inv s) {t : State} (ht : Inv t) (i : Instr) : Inv (repeatRule i s t) := by
  have hc : Inv (clearFresh i t) := by
    unfold clearFresh; split <;> exact ht.same rfl
  simp only [Machine.repeatRule]
  split
  · exact hc
  · split
    · exact hc.same rfl
    · exact (hc.setPc h.pc_even).same rfl

theorem Inv.endLoop (h : Inv s) {a : PAddr} {u : State} (hu : endLoop a s = .ok u) : Inv u := by
  simp only [Machine.endLoop] at hu
  split at hu
  · split at hu
    · cases hu
    · cases hu; exact (h.setLoop h.loopShadow_even).same rfl
  · cases hu; exact h.same rfl

/-- The DO rule goes back to DOSTART, or takes the outer loop's registers back (R374, R375). -/
theorem Inv.doRule (h : Inv s) {i : Instr} {s0 u : State} (hu : doRule i s0 s = .ok u) : Inv u := by
  unfold Machine.doRule at hu
  split at hu
  · split at hu
    · cases hu
    · split at hu
      · unfold loopDecision at hu
        split at hu
        · exact h.endLoop hu
        · cases hu
          exact (h.setPc (a := 0#1 ++ s.loop.start)
            ((append_bit0 _ _ (by decide)).trans h.loop_even.1)).same rfl
      · cases hu; exact h
  · cases hu; exact h

/-- The record keeps three executed instructions (R381). -/
theorem Inv.record (h : Inv s) (i : Instr) (s0 t : State) : Inv (record i s0 t s) := by
  obtain ⟨memory, fixed, modcon, divide, -⟩ := h
  exact ⟨memory, fixed, modcon, divide, by simp [Machine.record]⟩

theorem Inv.complete (h : Inv s) {t u : State} (ht : Inv t) {i : Instr}
    (hu : complete i s t = .ok u) : Inv u := by
  unfold Machine.complete at hu
  split at hu
  · cases hu; exact ht
  · obtain ⟨v, hv, hu⟩ := bind_ok hu
    have hv : Inv { v with edt := ageEdt v.edt } := ((h.repeatRule ht i).doRule hv).same rfl
    have hd : Inv (countDisi i s t { v with edt := ageEdt v.edt }) := by
      rw [countDisi_like]; exact hv.same rfl
    simp only at hu
    split at hu
    · cases hu
    · cases hu; exact hd.record i s t

theorem Inv.runInstr (h : Inv s) (i : Instr) : NextInv (runInstr i s) := by
  have hr : Inv (resumeTarget s) := h.same rfl
  intro u hu
  simp only [Machine.runInstr] at hu
  split at hu
  · cases hu
  · split at hu
    · next t ht =>
      split at hu
      · next v hv => cases hu; exact hr.complete (hr.exec i t ht) hv
      · cases hu
    · cases hu
    · cases hu

theorem pendingTrap_like {t : State} {e : Exception} (h : pendingTrap s = some (e, t)) :
    Like s t := by
  unfold pendingTrap at h
  split at h
  · split at h
    · cases h; rfl
    · split at h <;> cases h <;> rfl
  · split at h
    · cases h; rfl
    · split at h <;> cases h
      rfl

/-- The exception taken at a boundary is found with at most one draw (R427). -/
theorem acceptedException_like {b : Boundary} {t : State} {e : Exception}
    (h : acceptedException b s = some (e, t)) : Like s t := by
  unfold acceptedException at h
  split at h
  · next _ he => cases h; exact pendingTrap_like he
  · unfold acceptedIrq at h
    split at h <;> cases h <;> rfl

theorem Inv.enterLevel (h : Inv s) (e : Exception) : Inv (enterLevel e s) := by
  cases e <;> exact h.same rfl

theorem Inv.entryDisi (h : Inv s) : Inv (entryDisi s) := by
  unfold Machine.entryDisi; split <;> exact h.same rfl

theorem noteEntry_length (a : Access) (l : List Executed) : (noteEntry a l).length = l.length := by
  cases l <;> rfl

theorem Inv.takeException (h : Inv s) {e : Exception} : StateInv (takeException e s) := by
  have hstart : Inv (setRa false (holdTarget (clearPending e s))) := by
    rw [holdTarget_eq]; cases e <;> exact h.same rfl
  refine hstart.push.bind fun _ h1 => h1.push.bind fun t h2 => givesInv_ok ?_
  have hv := (h2.enterLevel e).setPc (vectorOf_even e (Machine.enterLevel e t))
  exact hv.entryDisi.same (by simp [invPart, noteEntry_length, getW])

end Operations

/-- Settles O4: each form of a step, a reset, an exception entry, an instruction, keeps the invariant. -/
theorem step_keeps_inv : Obligations.step_keeps_inv := by
  intro s t h ht
  have hb : Inv (openBoundary s) := h.same rfl
  unfold step at ht
  split at ht
  · cases ht
  · split at ht
    · cases ht; exact .deviceReset h.memory
    · split at ht
      · next e u hu =>
        have hu : Inv u := hb.like (acceptedException_like hu)
        exact hu.finish hu.takeException t ht
      · split at ht
        · cases ht
        · next i _ => exact hb.runInstr i t ht

/-- Settles O5. -/
theorem reset_inv : Obligations.reset_inv := inv_reset

end Sys2Proof.Machine

/-! REPEAT by a register, what the step does around a REPEAT target, and the targets that are refused. -/

namespace Sys2Proof.Machine

/-! ## The REPEAT rule (R363, R364, R366, R80) -/

/-- A count of at most 14 bits has the two bits clear that R363 wants clear (D17). -/
theorem repeatReg_small {wn : WReg} {s : State} (h : (getW wn s).toNat < 2 ^ 14) :
    exec (.repeatReg wn) s = .next (startRepeat ((getW wn s).setWidth 14) s) := by
  have hbits : (getW wn s).extractLsb' 14 2 = 0#2 := by
    apply BitVec.eq_of_toNat_eq
    simp only [BitVec.extractLsb'_toNat, BitVec.toNat_ofNat, Nat.shiftRight_eq_div_pow]
    rw [Nat.div_eq_of_lt h]
  have hn : trapNested s (startRepeat ((getW wn s).setWidth 14) s) = false :=
    trapNested_same rfl rfl
  simp only [exec, execRepeatReg, hbits, if_true, finish_ok hn]

/-- What a REPEAT leaves (R362). -/
theorem startRepeat_eq (n : BitVec 14) (s : State) :
    startRepeat n s = { s with
      rcount := n, rptFresh := true, pc := s.pc + 2#23
      sr := { s.sr with ra := decide (n ≠ 0#14) } } := by
  have hra : (n != 0#14) = decide (n ≠ 0#14) := by rw [Bool.eq_iff_iff]; simp
  simp [startRepeat, advance, ahead, hra]

/-! ### What follows an instruction -/

/-- A step that answers applied the DO rule after the REPEAT rule; the countdown and the record leave what
those two decide. -/
theorem complete_ok {i : Instr} {s t u : State} (hr : t.cur.reset = false)
    (h : complete i s t = .ok u) : ∃ v, doRule i s (repeatRule i s t) = .ok v
      ∧ u.rcount = v.rcount ∧ u.sr = v.sr ∧ u.pc = v.pc ∧ u.rptFresh = v.rptFresh
      ∧ u.targets = nextTargets s := by
  simp only [complete, hr, Bool.false_eq_true, if_false] at h
  obtain ⟨v, hv, h⟩ := bind_ok h
  split at h
  · cases h
  · cases h
    refine ⟨v, hv, ?_⟩
    rw [countDisi_like]
    exact ⟨rfl, rfl, rfl, rfl, rfl⟩

theorem repeatRule_corcon (i : Instr) (s t : State) : (repeatRule i s t).corcon = t.corcon := by
  have hc : (clearFresh i t).corcon = t.corcon := by unfold clearFresh; split <;> rfl
  simp only [repeatRule]
  split
  · exact hc
  · split <;> exact hc

/-- Outside DO loops the DO rule does nothing (R374). -/
theorem doRule_inactive {i : Instr} {s t : State} (hs : loopActive s = false)
    (ht : loopActive t = false) : doRule i s (repeatRule i s t) = .ok (repeatRule i s t) := by
  have hu : loopActive (repeatRule i s t) = false := by
    rw [loopActive, repeatRule_corcon]; exact ht
  simp [doRule, atLoopEnd, hs, hu]

theorem doRule_rptFresh {i : Instr} {s t u : State} (h : doRule i s t = .ok u) :
    u.rptFresh = t.rptFresh := by
  unfold doRule at h
  split at h
  · split at h
    · cases h
    · split at h
      · unfold loopDecision at h
        split at h
        · simp only [endLoop] at h
          split at h
          · split at h <;> cases h
            rfl
          · cases h; rfl
        · cases h; rfl
      · cases h; rfl
  · cases h; rfl

/-- With RA set, outside DO loops, the step is one iteration less or ends the loop (R364). -/
theorem complete_iteration {i : Instr} {s t u : State} (hi : isRepeat i = false)
    (hra : s.sr.ra = true) (ht : loopActive t = false) (hs : loopActive s = false)
    (hr : t.cur.reset = false) (h : complete i s t = .ok u) :
    u.rptFresh = false
      ∧ (t.rcount = 0#14 → u.rcount = 0#14 ∧ u.sr.ra = false ∧ u.pc = t.pc)
      ∧ (t.rcount ≠ 0#14 → u.rcount = t.rcount - 1#14 ∧ u.sr.ra = t.sr.ra ∧ u.pc = s.pc) := by
  obtain ⟨v, hv, hcount, hsr, hpc, hfresh, -⟩ := complete_ok hr h
  rw [doRule_inactive hs ht] at hv
  cases hv
  rw [hcount, hsr, hpc, hfresh, repeatRule_plain s t hi]
  simp only [hra, Bool.true_eq_false, if_false]
  by_cases h0 : t.rcount = 0#14
  · simp [h0]
  · simp [h0]

/-- A step uses up the record of the target that it runs, and leaves `rpt_fresh` to a REPEAT alone (R80). -/
theorem complete_targets {i : Instr} {s t u : State} (hr : t.cur.reset = false)
    (h : complete i s t = .ok u) :
    (∀ x, x ∈ u.targets ↔ x ∈ s.targets ∧ x ≠ (s.pc, getW 15#4 s))
      ∧ (isRepeat i = false → u.rptFresh = false) := by
  obtain ⟨v, hv, -, -, -, hfresh, htargets⟩ := complete_ok hr h
  rw [htargets, hfresh, doRule_rptFresh hv]
  refine ⟨fun x => by simp [nextTargets], fun hi => ?_⟩
  rw [repeatRule_plain s t hi]
  split
  · rfl
  · split <;> rfl

/-! ### An exception in front of a target -/

/-- `t` has the REPEAT targets left behind of `s`, and its `rpt_fresh`. -/
def SameTargets (s t : State) : Prop := t.targets = s.targets ∧ t.rptFresh = s.rptFresh

theorem SameTargets.trans {s t u : State} (h : SameTargets s t) (h' : SameTargets t u) :
    SameTargets s u :=
  ⟨h'.1.trans h.1, h'.2.trans h.2⟩

theorem written_sameTargets (sz : Size) (a v : Word) (s : State) :
    SameTargets s (written sz a v s) := by
  unfold written
  cases regionOf sz a s with
  | core =>
    simp only
    cases coreRegAt a with
    | w n => cases sz <;> exact ⟨rfl, rfl⟩
    | accL x | accH x | accU x => cases x <;> exact ⟨rfl, rfl⟩
    | _ => exact ⟨rfl, rfl⟩
  | storage => cases sz <;> exact ⟨rfl, rfl⟩
  | _ => exact ⟨rfl, rfl⟩

theorem push_sameTargets {role : Role} {v : Word} {s t : State} (h : push role v s = .ok t) :
    SameTargets s t := by
  obtain ⟨⟨ea, u⟩, hu, hw⟩ := bind_ok h
  have hu : SameTargets s u := by
    unfold useEA at hu
    split at hu <;> cases hu
    unfold stackCheck
    split <;> exact ⟨rfl, rfl⟩
  have hm : SameTargets u (movePtr role 15#4 2 u) := by
    simp only [movePtr]
    split <;> split <;> exact ⟨rfl, rfl⟩
  have hl : SameTargets (written .word ea v (movePtr role 15#4 2 u)) t := by
    rw [(memWrite_ok hw).2]; exact ⟨rfl, rfl⟩
  exact (hu.trans hm).trans ((written_sameTargets ..).trans hl)

/-- After the pushes an entry changes the priority, the pc, DISICNT and the records of its step (R450). -/
theorem takeException_sameTargets {e : Exception} {s t : State} (h : takeException e s = .ok t) :
    SameTargets (holdTarget (clearPending e s)) t := by
  obtain ⟨u, hu, h⟩ := bind_ok h
  obtain ⟨v, hv, h⟩ := bind_ok h
  have hl : SameTargets v (enterLevel e v) := by cases e <;> exact ⟨rfl, rfl⟩
  have hd (w : State) : SameTargets w (entryDisi w) := by
    unfold entryDisi; split <;> exact ⟨rfl, rfl⟩
  have ht : SameTargets v t := by
    cases h; exact hl.trans (hd (setPc _ (enterLevel e v)))
  exact (push_sameTargets hu).trans ((push_sameTargets hv).trans ht)

/-- An entry keeps every target left behind, and the one in front of which it is made (R80, R300, log
entry 55). -/
theorem takeException_targets {e : Exception} {s t : State} (h : takeException e s = .ok t) :
    (∀ x ∈ s.targets, x ∈ t.targets)
      ∧ (s.rptFresh = true → (s.pc, getW 15#4 s) ∈ t.targets ∧ t.rptFresh = false) := by
  have hc : (clearPending e s).targets = s.targets ∧ (clearPending e s).rptFresh = s.rptFresh
      ∧ (clearPending e s).pc = s.pc ∧ getW 15#4 (clearPending e s) = getW 15#4 s := by
    cases e <;> exact ⟨rfl, rfl, rfl, rfl⟩
  obtain ⟨htargets, hfresh⟩ := takeException_sameTargets h
  rw [holdTarget_eq, hc.1, hc.2.1, hc.2.2.1, hc.2.2.2] at htargets
  rw [holdTarget_eq] at hfresh
  rw [htargets, hfresh]
  refine ⟨fun x hx => ?_, fun hs => ?_⟩
  · simp only
    split
    · exact List.mem_insert_of_mem hx
    · exact hx
  · simp [hs]

theorem resumeTarget_eq (s : State) : resumeTarget s = { s with
    rptFresh := decide (s.rptFresh = true ∨ (s.pc, getW 15#4 s) ∈ s.targets) } := by
  have h : (s.rptFresh || s.targets.contains (s.pc, getW 15#4 s))
      = decide (s.rptFresh = true ∨ (s.pc, getW 15#4 s) ∈ s.targets) := by
    rw [Bool.eq_iff_iff]; simp
  simp only [resumeTarget, h]

/-! ### Forbidden targets -/

theorem ahead_ahead (a : PAddr) : ahead 1 (ahead 1 a) = ahead 2 a := by
  simp [ahead, BitVec.add_assoc]

theorem runInstr_refused {i : Instr} {s : State} {r : Refusal}
    (h : preCheck i (resumeTarget s) = some r) : runInstr i s = .refused r := by
  simp only [runInstr, h]

/-- A forbidden target that is about to run is refused (R366, log entry 18). -/
theorem target_refused {i : Instr} {s : State} (hi : forbiddenTarget i = true)
    (h : s.sr.ra = true ∨ s.rptFresh = true) : runInstr i s = .refused .repeatTarget := by
  have ht : isTarget (resumeTarget s) = true := by
    rcases h with h | h <;> simp [isTarget, resumeTarget, h]
  exact runInstr_refused (by simp [preCheck, ht, hi])

/-- A REPEAT before a forbidden target is refused (R366, log entry 18). -/
theorem repeat_before_refused {i j : Instr} {s : State} {w : PWord} (hi : forbiddenTarget i = true)
    (hj : isRepeat j = true) (hw : progRead (ahead 1 s.pc) s = some w)
    (hd : decode w (progRead (ahead 2 s.pc) s) = .ok i) : runInstr j s = .refused .repeatTarget := by
  have hat : instrAt (ahead 1 s.pc) (resumeTarget s) = .ok i := by
    have hw' : progRead (ahead 1 s.pc) (resumeTarget s) = some w := hw
    have hd' : decode w (progRead (ahead 2 s.pc) (resumeTarget s)) = .ok i := hd
    simp only [instrAt, hw', ahead_ahead, hd']
  have hn : nextForbidden (resumeTarget s) = true := by
    unfold nextForbidden
    rw [show (resumeTarget s).pc = s.pc from rfl, hat]
    exact hi
  exact runInstr_refused (by simp [preCheck, hj, hn])

/-- Settles O50: each clause by the lemma above that speaks of it; the instructions of R366's list are
the forbidden targets. -/
theorem repeat_rule : Obligations.repeat_rule := by
  refine ⟨fun wn s h => ?_, fun i s t u hi hra ht hs hr h => complete_iteration hi hra ht hs hr h,
    fun i s t u hr h => complete_targets hr h, fun e s t h => takeException_targets h,
    resumeTarget_eq, fun s => ?_⟩
  · rw [repeatReg_small h, startRepeat_eq]
  · intro bad
    have hbad {i : Instr} (hi : forbiddenTarget i = true) : bad i :=
      ⟨target_refused hi, fun ⟨_, hw, hd⟩ =>
        ⟨fun _ => repeat_before_refused hi rfl hw hd, fun _ => repeat_before_refused hi rfl hw hd⟩⟩
    exact ⟨fun _ _ => ⟨hbad rfl, hbad rfl⟩, fun _ => ⟨hbad rfl, hbad rfl⟩, hbad rfl,
      fun _ _ _ => hbad rfl, hbad rfl, fun _ _ => hbad rfl, fun _ => ⟨hbad rfl, hbad rfl⟩,
      fun _ => hbad rfl, fun _ _ => hbad rfl, fun _ _ => hbad rfl, hbad rfl, fun _ => hbad rfl,
      fun _ => hbad rfl, hbad rfl, fun _ _ _ => hbad rfl, fun _ _ _ => hbad rfl⟩

end Sys2Proof.Machine

/-! The registers of the core through their data addresses (R60, R98). -/

namespace Sys2Proof.Machine

/-! ## Accesses to core registers

A read or a write of a core register is made where no rule refuses it, and is refused where one does; what it
gives is then a matter of `readReg` and `writeReg` alone. -/

theorem regionOf_core {a : Word} (ha : a < 0x0080#16) (sz : Size) (s : State) :
    regionOf sz a s = .core := by simp [regionOf, ha]

theorem memRead_core {sz : Size} {a : Word} {s : State} (ha : a < 0x0080#16)
    (hm : misaligned sz a = false) (hh : readHazard sz a s = none) :
    memRead sz a s = .ok (accessWord sz a (readReg (coreRegAt a) s), s) := by
  simp [memRead, hm, regionOf_core ha, hh]

theorem memRead_core_refused {sz : Size} {a : Word} {s : State} {r : Refusal} (ha : a < 0x0080#16)
    (hm : misaligned sz a = false) (hh : readHazard sz a s = some r) :
    memRead sz a s = .error (.refused r) := by
  simp [memRead, hm, regionOf_core ha, hh]

theorem memWrite_core {sz : Size} {a : Word} {s : State} (v : Word) (ha : a < 0x0080#16)
    (hm : misaligned sz a = false) (hh : writeHazard a s = none) :
    memWrite sz a v s = .ok (noteCoreWrite sz a
      (writeReg (coreRegAt a) (sz == .word) (mergeWrite sz a v (readReg (coreRegAt a) s)) s)) := by
  simp [memWrite, hm, regionOf_core ha, hh]

theorem memWrite_core_refused {sz : Size} {a : Word} {s : State} {r : Refusal} (v : Word)
    (ha : a < 0x0080#16) (hm : misaligned sz a = false) (hh : writeHazard a s = some r) :
    memWrite sz a v s = .error (.refused r) := by
  simp [memWrite, hm, regionOf_core ha, hh]

/-! ### The working registers (R25) -/

/-- Both bytes at the data address of Wn belong to it, the low one at the even address. -/
theorem regAddr_spec (n : WReg) :
    regAddr n < 0x0080#16 ∧ (regAddr n).getLsbD 0 = false ∧ coreRegAt (regAddr n) = .w n
      ∧ regAddr n + 1#16 < 0x0080#16 ∧ (regAddr n + 1#16).getLsbD 0 = true
      ∧ coreRegAt (regAddr n + 1#16) = .w n := by
  revert n; decide

theorem readHazard_w {a : Word} {n : WReg} (h : coreRegAt a = .w n) (sz : Size) (s : State) :
    readHazard sz a s = none := by simp [readHazard, h]

theorem writeHazard_w {a : Word} {n : WReg} (h : coreRegAt a = .w n) (s : State) :
    writeHazard a s = none := by simp [writeHazard, h]

theorem noteCoreWrite_w {a : Word} {n : WReg} (h : coreRegAt a = .w n) (sz : Size) (s : State) :
    noteCoreWrite sz a s = s := by simp [noteCoreWrite, h]

theorem memRead_w_word (n : WReg) (s : State) : memRead .word (regAddr n) s = .ok (getW n s, s) := by
  obtain ⟨hlt, heven, hreg, -⟩ := regAddr_spec n
  rw [memRead_core hlt (by simp only [misaligned, heven, Bool.and_false]) (readHazard_w hreg ..), hreg]
  rfl

theorem memRead_w_low (n : WReg) (s : State) :
    memRead .byte (regAddr n) s = .ok (((getW n s).extractLsb' 0 8).setWidth 16, s) := by
  obtain ⟨hlt, heven, hreg, -⟩ := regAddr_spec n
  rw [memRead_core hlt rfl (readHazard_w hreg ..), hreg]
  simp only [accessWord, byteAt, heven, readReg, Bool.false_eq_true, if_false]

theorem memRead_w_high (n : WReg) (s : State) :
    memRead .byte (regAddr n + 1#16) s = .ok (((getW n s).extractLsb' 8 8).setWidth 16, s) := by
  obtain ⟨-, -, -, hlt, hodd, hreg⟩ := regAddr_spec n
  rw [memRead_core hlt rfl (readHazard_w hreg ..), hreg]
  simp only [accessWord, byteAt, hodd, readReg, if_true]

/-- A word write is the register's own write (R26). -/
theorem memWrite_w_word (n : WReg) (v : Word) (s : State) :
    memWrite .word (regAddr n) v s = .ok (setW n v s) := by
  obtain ⟨hlt, heven, hreg, -⟩ := regAddr_spec n
  rw [memWrite_core v hlt (by simp only [misaligned, heven, Bool.and_false]) (writeHazard_w hreg s),
    noteCoreWrite_w hreg, hreg]
  rfl

/-- A byte write at the odd address stores the high byte and sets no mark (R26). -/
theorem memWrite_w_high (n : WReg) (v : Word) (s : State) :
    memWrite .byte (regAddr n + 1#16) v s = .ok (noteModified n
      (putW n (v.extractLsb' 0 8 ++ (getW n s).extractLsb' 0 8) s)) := by
  obtain ⟨-, -, -, hlt, hodd, hreg⟩ := regAddr_spec n
  rw [memWrite_core v hlt rfl (writeHazard_w hreg s), noteCoreWrite_w hreg, hreg]
  simp only [mergeWrite, withByteAt, hodd, readReg, if_true]
  rfl

/-! ### PCL and PCH, the reserved addresses (R32, R59) -/

theorem coreRegAt_pc {a : Word} (hlo : 0x002E#16 ≤ a) (hhi : a ≤ 0x0031#16) : coreRegAt a = .pc := by
  have ha : a = 0x2E#16 ∨ a = 0x2F#16 ∨ a = 0x30#16 ∨ a = 0x31#16 := by bv_omega
  rcases ha with rfl | rfl | rfl | rfl <;> rfl

/-- From 0x0054 on no row of R60's table names a register. -/
theorem coreRegAt_reserved {a : Word} (hlo : 0x0054#16 ≤ a) (hhi : a ≤ 0x007F#16) :
    coreRegAt a = .reserved := by
  have hw : ¬ a < 0x0020#16 := by bv_omega
  have hlo' : 0x54 ≤ a.toNat := hlo
  rw [coreRegAt, if_neg hw]
  split
  case h_27 => rfl
  all_goals omega

theorem misaligned_of {sz : Size} {a : Word} (h : sz = .word → a.getLsbD 0 = false) :
    misaligned sz a = false := by
  cases sz
  · simp only [misaligned, h rfl, Bool.and_false]
  · rfl

/-- PCL and PCH are no data (R32, D39). -/
theorem pc_refused {a : Word} (hlo : 0x002E#16 ≤ a) (hhi : a ≤ 0x0031#16) {sz : Size}
    (hm : misaligned sz a = false) (v : Word) (s : State) :
    memRead sz a s = .error (.refused .pcAsData) ∧ memWrite sz a v s = .error (.refused .pcAsData) := by
  have hlt : a < 0x0080#16 := by bv_omega
  have hreg := coreRegAt_pc hlo hhi
  exact ⟨memRead_core_refused hlt hm (by simp [readHazard, hreg]),
    memWrite_core_refused v hlt hm (by simp [writeHazard, hreg])⟩

/-- The reserved addresses read 0 and ignore writes (R59, D23). -/
theorem reserved_zero {a : Word} (hlo : 0x0054#16 ≤ a) (hhi : a ≤ 0x007F#16) {sz : Size}
    (hm : misaligned sz a = false) (v : Word) (s : State) :
    memRead sz a s = .ok (0#16, s) ∧ memWrite sz a v s = .ok s := by
  have hlt : a < 0x0080#16 := by bv_omega
  have hreg := coreRegAt_reserved hlo hhi
  have hread : accessWord sz a 0#16 = 0#16 := by
    cases sz <;> simp [accessWord, byteAt]
  rw [memRead_core hlt hm (by simp [readHazard, hreg]),
    memWrite_core v hlt hm (by simp [writeHazard, hreg])]
  simp [hreg, readReg, writeReg, noteCoreWrite, hread]

/-- Settles O13: the accesses to a working register at its two bytes, then PCL and PCH, then the reserved
addresses. -/
theorem registers_in_memory : Obligations.registers_in_memory := by
  have hframe (n : WReg) (v : Word) (s : State) : SameWBut [n] s (putW n v s) := fun m hm =>
    getW_putW_other v s (by simpa using hm)
  refine ⟨fun n v s => ⟨memRead_w_word n s, memRead_w_low n s, memRead_w_high n s,
      ⟨_, memWrite_w_word n v s, ?_, isInit_setW_same n v s, hframe n v s, rfl⟩,
      ⟨_, memWrite_w_high n v s, getW_putW_same n _ s, rfl, hframe n _ s, rfl⟩⟩,
    fun a v s => ⟨fun hlo hhi _ hm => pc_refused hlo hhi (misaligned_of hm) v s,
      fun hlo hhi _ hm => reserved_zero hlo hhi (misaligned_of hm) v s⟩⟩
  exact getW_putW_same n v s

/-! ## SR (R33 to R41) -/

/-- Where each bit of SRL is read (R33). -/
theorem srLow_bits (s : State) :
    (srLow s).getLsbD 0 = s.sr.c ∧ (srLow s).getLsbD 1 = s.sr.z ∧ (srLow s).getLsbD 2 = s.sr.ov
      ∧ (srLow s).getLsbD 3 = s.sr.n ∧ (srLow s).getLsbD 4 = s.sr.ra := by
  simp only [srLow, BitVec.getLsbD_append, BitVec.getLsbD_ofBool]
  simp

theorem srLow_ipl (s : State) : (srLow s).extractLsb' 5 3 = s.sr.ipl := by
  unfold srLow
  iterate 4 rw [BitVec.extractLsb'_append_eq_of_le (by decide)]
  exact BitVec.extractLsb'_append_eq_left

/-- Where each bit of SRH is read, OAB, SAB and DA being derived (R33, R36, R37). -/
theorem srHigh_bits (s : State) :
    (srHigh s).getLsbD 0 = s.sr.dc ∧ (srHigh s).getLsbD 1 = (s.corcon.dl != 0#3)
      ∧ (srHigh s).getLsbD 2 = (s.sr.sa || s.sr.sb) ∧ (srHigh s).getLsbD 3 = (s.sr.oa || s.sr.ob)
      ∧ (srHigh s).getLsbD 4 = s.sr.sb ∧ (srHigh s).getLsbD 5 = s.sr.sa
      ∧ (srHigh s).getLsbD 6 = s.sr.ob ∧ (srHigh s).getLsbD 7 = s.sr.oa := by
  simp only [srHigh, loopActive, BitVec.getLsbD_append, BitVec.getLsbD_ofBool]
  simp

/-- The bits of a word made of two bytes. -/
theorem word_bit (hi lo : Byte) (i : Nat) :
    (hi ++ lo : Word).getLsbD i = if i < 8 then lo.getLsbD i else hi.getLsbD (i - 8) :=
  BitVec.getLsbD_append

/-- A read of SR: SRH above SRL. -/
theorem srWord_bit (s : State) (i : Nat) :
    (srWord s).getLsbD i = if i < 8 then (srLow s).getLsbD i else (srHigh s).getLsbD (i - 8) :=
  word_bit ..

/-- A read of SR is refused to a REPEAT target, and to it alone (R364, D18). -/
theorem memRead_sr (s : State) :
    memRead .word 0x0042#16 s
      = if s.sr.ra then .error (.refused .srlInRepeat) else .ok (srWord s, s) := by
  cases hra : s.sr.ra with
  | true => exact memRead_core_refused (by decide) rfl (by simp [readHazard, coreRegAt, touchesLow, hra])
  | false => exact memRead_core (by decide) rfl (by simp [readHazard, coreRegAt, hra])

theorem srWord_high (s : State) : (srWord s).extractLsb' 8 8 = srHigh s :=
  BitVec.extractLsb'_append_eq_left

theorem srWord_low (s : State) : (srWord s).extractLsb' 0 8 = srLow s :=
  BitVec.extractLsb'_append_eq_right

theorem memWrite_sr (v : Word) (s : State) :
    memWrite .word 0x0042#16 v s = .ok (noteCoreWrite .word 0x0042#16 (writeSr v s)) :=
  memWrite_core v (by decide) rfl rfl

/-- Settles O14. -/
theorem sr_write : Obligations.sr_write := by
  intro v s
  refine ⟨fun hra => ⟨srWord s, by rw [memRead_sr, hra]; rfl, ?_⟩,
    fun hra => by rw [memRead_sr, hra]; rfl, _, memWrite_sr v s, rfl, rfl, rfl, rfl, rfl, rfl, rfl,
    rfl, rfl, rfl, rfl, rfl⟩
  obtain ⟨h8, h9, h10, h11, h12, h13, h14, h15⟩ := srHigh_bits s
  obtain ⟨h0, h1, h2, h3, h4⟩ := srLow_bits s
  have hipl : (srWord s).extractLsb' 5 3 = s.sr.ipl :=
    (BitVec.extractLsb'_append_eq_of_add_le (by decide)).trans (srLow_ipl s)
  simp only [srWord_bit]
  exact ⟨h15, h14, h13, h12, h11, h10, h9, h8, hipl, h4, h3, h2, h1, h0⟩

/-- A byte written to SRL stores R41's bits of it; SA and SB, which read as they are, stay. -/
theorem writeSr_low (b : Byte) (s : State) :
    writeSr (srHigh s ++ b) s = { s with sr := { s.sr with
      c := b.getLsbD 0, z := b.getLsbD 1, ov := b.getLsbD 2, n := b.getLsbD 3
      ipl := if s.intcon.nstdis then s.sr.ipl else b.extractLsb' 5 3 } } := by
  obtain ⟨hdc, -, hsab, -, hsb, hsa, -⟩ := srHigh_bits s
  have hipl : (srHigh s ++ b : Word).extractLsb' 5 3 = b.extractLsb' 5 3 :=
    BitVec.extractLsb'_append_eq_of_add_le (by decide)
  have hkeepA : (s.sr.sa && s.sr.sa && (s.sr.sa || s.sr.sb)) = s.sr.sa := by cases s.sr.sa <;> rfl
  have hkeepB : (s.sr.sb && s.sr.sb && (s.sr.sa || s.sr.sb)) = s.sr.sb := by
    cases s.sr.sb <;> simp
  simp only [writeSr, word_bit, Nat.reduceLT, Nat.reduceSub, if_true, if_false, hdc, hsab, hsb, hsa, hipl,
    hkeepA, hkeepB]

/-- A byte written to SRH stores DC and clears SA and SB (R35, R41); SRL, which reads as it is, stays. -/
theorem writeSr_high (b : Byte) (s : State) :
    writeSr (b ++ srLow s) s = { s with sr := { s.sr with
      dc := b.getLsbD 0
      sa := s.sr.sa && b.getLsbD 5 && b.getLsbD 2
      sb := s.sr.sb && b.getLsbD 4 && b.getLsbD 2 } } := by
  obtain ⟨hc, hz, hov, hn, -⟩ := srLow_bits s
  have hipl : (b ++ srLow s : Word).extractLsb' 5 3 = s.sr.ipl :=
    (BitVec.extractLsb'_append_eq_of_add_le (by decide)).trans (srLow_ipl s)
  simp only [writeSr, word_bit, Nat.reduceLT, Nat.reduceSub, if_true, if_false, hc, hz, hov, hn, hipl,
    ite_self]

/-- Bits 11 and 9 of what is written to SR, OAB and DA, have no effect (R36, R37). -/
theorem writeSr_flip {m : Word} (hm : m = 0x0800#16 ∨ m = 0x0200#16 ∨ m = 0x0A00#16) (v : Word)
    (s : State) : writeSr (v ^^^ m) s = writeSr v s := by
  rcases hm with rfl | rfl | rfl <;> simp [writeSr, BitVec.extractLsb'_xor]

/-- The two bytes at SR's address (R92, D2). -/
theorem memWrite_srl (v : Word) (s : State) :
    memWrite .byte 0x0042#16 v s = .ok (noteCoreWrite .byte 0x0042#16
      (writeSr (srHigh s ++ v.extractLsb' 0 8) s)) := by
  rw [memWrite_core v (by decide) rfl rfl]
  simp [mergeWrite, withByteAt, readReg, coreRegAt, writeReg, srWord_high]

theorem memWrite_srh (v : Word) (s : State) :
    memWrite .byte 0x0043#16 v s = .ok (noteCoreWrite .byte 0x0043#16
      (writeSr (v.extractLsb' 0 8 ++ srLow s) s)) := by
  rw [memWrite_core v (by decide) rfl rfl]
  simp [mergeWrite, withByteAt, readReg, coreRegAt, writeReg, srWord_low]

/-- Settles O15. -/
theorem sr_byte_write : Obligations.sr_byte_write := by
  intro v s
  have hbit (i : Nat) (hi : i < 8) : (v.extractLsb' 0 8).getLsbD i = v.getLsbD i := by simp [hi]
  refine ⟨⟨_, memWrite_srl v s, ?_⟩, _, memWrite_srh v s, ?_⟩
  · rw [writeSr_low]
    refine ⟨rfl, hbit 0 (by decide), hbit 1 (by decide), hbit 2 (by decide), hbit 3 (by decide), rfl,
      fun h => if_pos h, fun h => (if_neg (by simp [h])).trans ?_⟩
    exact BitVec.extractLsb'_extractLsb'_of_le (by decide)
  · rw [writeSr_high]
    refine ⟨rfl, hbit 0 (by decide), ?_, ?_⟩ <;>
      simp only [hbit 5 (by decide), hbit 4 (by decide), hbit 2 (by decide)] <;> rfl

/-- Settles O16. -/
theorem sr_read : Obligations.sr_read := by
  intro s
  refine ⟨fun w t h => ?_, fun v => ⟨_, memWrite_sr v s, rfl, rfl, rfl, ?_, ?_, ?_, ?_, ?_, ?_⟩⟩
  · rw [memRead_sr] at h
    split at h <;> cases h
    obtain ⟨-, hda, hsab, hoab, -⟩ := srHigh_bits s
    simp only [srWord_bit]
    exact ⟨hoab, hsab, hda⟩
  · rw [memWrite_sr, writeSr_flip (.inl rfl)]
  · rw [memWrite_sr, writeSr_flip (.inr (.inl rfl))]
  · rw [memWrite_sr, writeSr_flip (.inr (.inr rfl))]
  · intro h
    have hcleared (x y : Bool) : (x && y && v.getLsbD 10) = false := by rw [h, Bool.and_false]
    exact ⟨hcleared _ _, hcleared _ _⟩
  · intro h h13
    change (s.sr.sa && v.getLsbD 13 && v.getLsbD 10) = s.sr.sa
    rw [h, h13, Bool.and_true, Bool.and_true]
  · intro h h12
    change (s.sr.sb && v.getLsbD 12 && v.getLsbD 10) = s.sr.sb
    rw [h, h12, Bool.and_true, Bool.and_true]

end Sys2Proof.Machine

/-! CORCON, SPLIM, the accumulators and the other special registers through their data addresses. -/

namespace Sys2Proof.Machine

/-! ## Words of core registers -/

/-- An aligned word at the address of the register `r` is the register. -/
theorem readWord {a : Word} {s : State} (r : CoreReg) (ha : a < 0x0080#16)
    (hm : misaligned .word a = false) (hh : readHazard .word a s = none) (hr : coreRegAt a = r) :
    memRead .word a s = .ok (readReg r s, s) := by
  rw [memRead_core ha hm hh, hr]; rfl

/-- A word written there is the register's own write, with its record. -/
theorem writeWord {a v : Word} {s : State} (r : CoreReg) (ha : a < 0x0080#16)
    (hm : misaligned .word a = false) (hh : writeHazard a s = none) (hr : coreRegAt a = r) :
    memWrite .word a v s = .ok (noteCoreWrite .word a (writeReg r true v s)) := by
  rw [memWrite_core v ha hm hh, hr]; rfl

/-! ## CORCON (R42, R43) -/

/-- Where each bit of CORCON is read; EDT reads 0. -/
theorem corconWord_bits (s : State) :
    (corconWord s).getLsbD 0 = s.corcon.intMode ∧ (corconWord s).getLsbD 1 = s.corcon.rnd
      ∧ (corconWord s).getLsbD 2 = s.corcon.psv ∧ (corconWord s).getLsbD 3 = s.corcon.ipl3
      ∧ (corconWord s).getLsbD 4 = s.corcon.accsat ∧ (corconWord s).getLsbD 5 = s.corcon.satdw
      ∧ (corconWord s).getLsbD 6 = s.corcon.satb ∧ (corconWord s).getLsbD 7 = s.corcon.sata
      ∧ (corconWord s).getLsbD 11 = false ∧ (corconWord s).getLsbD 12 = s.corcon.us := by
  simp only [corconWord, BitVec.getLsbD_append, BitVec.getLsbD_ofBool]
  simp

/-- DL and the unimplemented bits of CORCON. -/
theorem corconWord_fields (s : State) :
    (corconWord s).extractLsb' 8 3 = s.corcon.dl ∧ (corconWord s).extractLsb' 13 3 = 0#3 := by
  unfold corconWord
  constructor
  · iterate 8 rw [BitVec.extractLsb'_append_eq_of_le (by decide)]
    exact BitVec.extractLsb'_append_eq_right
  · iterate 11 rw [BitVec.extractLsb'_append_eq_of_le (by decide)]
    rfl

theorem memRead_corcon (s : State) : memRead .word 0x0044#16 s = .ok (corconWord s, s) :=
  memRead_core (by decide) rfl rfl

theorem memWrite_corcon (v : Word) (s : State) :
    memWrite .word 0x0044#16 v s = .ok (writeCorcon v s) :=
  memWrite_core v (by decide) rfl rfl

/-- A write asks for early termination where EDT is 1 and a DO loop is active (R377, D20). -/
theorem writeCorcon_edt (v : Word) (s : State) :
    (v.getLsbD 11 = false → (writeCorcon v s).edt = s.edt)
      ∧ (v.getLsbD 11 = true → s.corcon.dl ≠ 0#3 → (writeCorcon v s).edt = .new)
      ∧ (s.corcon.dl = 0#3 → (writeCorcon v s).edt = s.edt) := by
  refine ⟨fun h => ?_, fun h hd => ?_, fun hd => ?_⟩
  · simp only [writeCorcon, h, Bool.false_and, Bool.false_eq_true, if_false]
  · have ha : loopActive s = true := by simp [loopActive, hd]
    simp only [writeCorcon, h, ha, Bool.and_self, if_true]
  · have ha : loopActive s = false := by simp [loopActive, hd]
    simp only [writeCorcon, ha, Bool.and_false, Bool.false_eq_true, if_false]

/-- What a read gives after a write (R43). -/
theorem corconWord_write (v : Word) (s : State) :
    let w := corconWord (writeCorcon v s)
    w.extractLsb' 13 3 = 0#3 ∧ w.getLsbD 11 = false ∧ w.extractLsb' 8 3 = s.corcon.dl
      ∧ w.getLsbD 12 = v.getLsbD 12 ∧ w.extractLsb' 4 4 = v.extractLsb' 4 4
      ∧ w.getLsbD 3 = (s.corcon.ipl3 && v.getLsbD 3) ∧ w.extractLsb' 0 3 = v.extractLsb' 0 3 := by
  obtain ⟨h0, h1, h2, h3, h4, h5, h6, h7, h11, h12⟩ := corconWord_bits (writeCorcon v s)
  obtain ⟨hdl, hun⟩ := corconWord_fields (writeCorcon v s)
  refine ⟨hun, h11, hdl, h12, ?_, h3, ?_⟩
  · apply BitVec.eq_of_getLsbD_eq
    intro i hi
    simp only [BitVec.getLsbD_extractLsb']
    interval_cases i
    exacts [congrArg _ h4, congrArg _ h5, congrArg _ h6, congrArg _ h7]
  · apply BitVec.eq_of_getLsbD_eq
    intro i hi
    simp only [BitVec.getLsbD_extractLsb']
    interval_cases i
    exacts [congrArg _ h0, congrArg _ h1, congrArg _ h2]

/-- A byte written to the low half: the high half, read as it is, stays, and EDT reads 0. -/
theorem writeCorcon_low (b : Byte) (s : State) :
    writeCorcon ((corconWord s).extractLsb' 8 8 ++ b) s = { s with corcon := { s.corcon with
      sata := b.getLsbD 7, satb := b.getLsbD 6, satdw := b.getLsbD 5, accsat := b.getLsbD 4
      ipl3 := s.corcon.ipl3 && b.getLsbD 3, psv := b.getLsbD 2, rnd := b.getLsbD 1
      intMode := b.getLsbD 0 } } := by
  obtain ⟨-, -, -, -, -, -, -, -, h11, h12⟩ := corconWord_bits s
  have hhigh : ((corconWord s).extractLsb' 8 8).getLsbD 3 = false
      ∧ ((corconWord s).extractLsb' 8 8).getLsbD 4 = s.corcon.us := by
    simp only [BitVec.getLsbD_extractLsb']
    exact ⟨congrArg _ h11, congrArg _ h12⟩
  simp only [writeCorcon, word_bit, Nat.reduceLT, Nat.reduceSub, if_true, if_false, hhigh,
    Bool.false_and, Bool.false_eq_true]

/-- A byte written to the high half: US, and EDT; the low half, read as it is, stays. -/
theorem writeCorcon_high (b : Byte) (s : State) :
    writeCorcon (b ++ (corconWord s).extractLsb' 0 8) s = { s with
      corcon := { s.corcon with us := b.getLsbD 4 }
      edt := (writeCorcon (b ++ (corconWord s).extractLsb' 0 8) s).edt } := by
  obtain ⟨h0, h1, h2, h3, h4, h5, h6, h7, -⟩ := corconWord_bits s
  have hlow (i : Nat) (hi : i < 8) :
      ((corconWord s).extractLsb' 0 8).getLsbD i = (corconWord s).getLsbD i := by simp [hi]
  simp only [writeCorcon, word_bit, Nat.reduceLT, Nat.reduceSub, if_true, if_false, hlow, h0, h1, h2,
    h3, h4, h5, h6, h7, Bool.and_self]

theorem memWrite_corcon_low (v : Word) (s : State) : memWrite .byte 0x0044#16 v s
    = .ok (writeCorcon ((corconWord s).extractLsb' 8 8 ++ v.extractLsb' 0 8) s) :=
  memWrite_core v (by decide) rfl rfl

theorem memWrite_corcon_high (v : Word) (s : State) : memWrite .byte 0x0045#16 v s
    = .ok (writeCorcon (v.extractLsb' 0 8 ++ (corconWord s).extractLsb' 0 8) s) :=
  memWrite_core v (by decide) rfl rfl

/-- Settles O17: the word write, then a write of each half. -/
theorem corcon_write : Obligations.corcon_write := by
  intro v s
  have hbit (i : Nat) (hi : i < 8) : (v.extractLsb' 0 8).getLsbD i = v.getLsbD i := by simp [hi]
  refine ⟨?word, ⟨_, memWrite_corcon_low v s, ?_⟩, ⟨_, memWrite_corcon_high v s, ?_⟩⟩
  case word =>
    obtain ⟨hkeep, hnew, hnone⟩ := writeCorcon_edt v s
    exact ⟨_, memWrite_corcon v s, rfl, rfl, rfl, rfl, rfl, rfl, rfl, rfl, rfl, rfl, rfl, hkeep, hnew,
      hnone, _, memRead_corcon _, corconWord_write v s⟩
  · rw [writeCorcon_low]
    refine ⟨rfl, ?_⟩
    simp only [hbit, Nat.reduceLT]
  · have hedt : (v.extractLsb' 0 8 ++ (corconWord s).extractLsb' 0 8 : Word).getLsbD 11
        = v.getLsbD 3 := (word_bit ..).trans (hbit 3 (by decide))
    have hus := writeCorcon_high (v.extractLsb' 0 8) s
    rw [hbit 4 (by decide)] at hus
    have h := writeCorcon_edt (v.extractLsb' 0 8 ++ (corconWord s).extractLsb' 0 8) s
    rw [hedt] at h
    exact ⟨hus, h⟩

/-! ## SPLIM (R45) -/

theorem memWrite_splim (v : Word) (s : State) : memWrite .word 0x0020#16 v s
    = .ok (writeReg .splim true v s) :=
  memWrite_core v (by decide) rfl rfl

theorem memWrite_splim_low (v : Word) (s : State) : memWrite .byte 0x0020#16 v s
    = .ok (writeReg .splim false (s.splim.extractLsb' 8 8 ++ v.extractLsb' 0 8) s) :=
  memWrite_core v (by decide) rfl rfl

theorem memWrite_splim_high (v : Word) (s : State) : memWrite .byte 0x0021#16 v s
    = .ok (writeReg .splim false (v.extractLsb' 0 8 ++ s.splim.extractLsb' 0 8) s) :=
  memWrite_core v (by decide) rfl rfl

/-- A byte write leaves the latch (R45). -/
theorem writeReg_splim_byte (v : Word) (s : State) :
    let t := writeReg .splim false v s
    t.splim = v &&& 0xFFFE#16 ∧ t = { s with splim := t.splim, cur := t.cur } := by
  refine ⟨rfl, ?_⟩
  simp only [writeReg, Bool.or_false, note]

/-- Settles O18. -/
theorem splim_write : Obligations.splim_write := by
  intro v s
  refine ⟨⟨_, memWrite_splim v s, rfl, ?_, rfl⟩, ⟨_, memWrite_splim_low v s, writeReg_splim_byte ..⟩,
    ⟨_, memWrite_splim_high v s, writeReg_splim_byte ..⟩⟩
  exact Bool.or_true _

/-! ## The accumulators (R46 to R48) -/

/-- Settles O19: a read gives the piece, sign-extended where it is the upper one, and a write replaces it
(R46, R47). -/
theorem accumulator_in_memory : Obligations.accumulator_in_memory := by
  intro v s
  have hupper (x : BitVec 8) : (x.signExtend 16).toInt = x.toInt :=
    BitVec.toInt_signExtend_of_le (by decide)
  exact ⟨⟨_, readWord (.accU .accA) (by decide) rfl rfl rfl, hupper _⟩,
    ⟨_, readWord (.accU .accB) (by decide) rfl rfl rfl, hupper _⟩,
    readWord (.accL .accA) (by decide) rfl rfl rfl, readWord (.accH .accA) (by decide) rfl rfl rfl,
    readWord (.accL .accB) (by decide) rfl rfl rfl, readWord (.accH .accB) (by decide) rfl rfl rfl,
    writeWord (.accL .accA) (by decide) rfl rfl rfl, writeWord (.accH .accA) (by decide) rfl rfl rfl,
    writeWord (.accU .accA) (by decide) rfl rfl rfl, writeWord (.accL .accB) (by decide) rfl rfl rfl,
    writeWord (.accH .accB) (by decide) rfl rfl rfl, writeWord (.accU .accB) (by decide) rfl rfl rfl⟩

/-! ## The page, modulo and loop registers, DISICNT (R50 to R58) -/

/-- A register whose bit 0 is fixed to 0 stores the bits above it. -/
theorem cleared_fields (v : Word) :
    (v &&& 0xFFFE#16).getLsbD 0 = false
      ∧ (v &&& 0xFFFE#16).extractLsb' 1 15 = v.extractLsb' 1 15 := by
  refine ⟨clear_bit0 v, ?_⟩
  rw [BitVec.extractLsb'_and, show (0xFFFE#16).extractLsb' 1 15 = BitVec.allOnes 15 by decide,
    BitVec.and_allOnes]

/-- A register whose bit 0 is fixed to 1 stores the bits above it. -/
theorem set_fields (v : Word) :
    (v ||| 0x0001#16).getLsbD 0 = true
      ∧ (v ||| 0x0001#16).extractLsb' 1 15 = v.extractLsb' 1 15 := by
  refine ⟨set_bit0 v, ?_⟩
  rw [BitVec.extractLsb'_or, show (0x0001#16).extractLsb' 1 15 = 0#15 by decide, BitVec.or_zero]

/-- MODCON stores every bit but 13 and 12 (R55). -/
theorem modcon_fields (v : Word) :
    (v &&& 0xCFFF#16).extractLsb' 12 2 = 0#2
      ∧ (v &&& 0xCFFF#16).extractLsb' 0 12 = v.extractLsb' 0 12
      ∧ (v &&& 0xCFFF#16).extractLsb' 14 2 = v.extractLsb' 14 2 := by
  simp only [BitVec.extractLsb'_and, show (0xCFFF#16).extractLsb' 12 2 = 0#2 by decide,
    show (0xCFFF#16).extractLsb' 0 12 = BitVec.allOnes 12 by decide,
    show (0xCFFF#16).extractLsb' 14 2 = BitVec.allOnes 2 by decide, BitVec.and_zero, BitVec.and_allOnes,
    and_self]

/-- The low word of DOSTART or DOEND replaced (R54). -/
theorem loopLow_fields (x : BitVec 22) (v : Word) :
    let r := x.extractLsb' 16 6 ++ (v &&& 0xFFFE#16)
    r.getLsbD 0 = false ∧ r.extractLsb' 1 15 = v.extractLsb' 1 15
      ∧ r.extractLsb' 16 6 = x.extractLsb' 16 6 :=
  ⟨(append_bit0 _ _ (by decide)).trans (clear_bit0 v),
    (BitVec.extractLsb'_append_eq_of_add_le (by decide)).trans (cleared_fields v).2,
    BitVec.extractLsb'_append_eq_left⟩

/-- The high word of DOSTART or DOEND replaced (R54). -/
theorem loopHigh_fields (x : BitVec 22) (v : Word) :
    let r := v.extractLsb' 0 6 ++ x.extractLsb' 0 16
    r.extractLsb' 16 6 = v.extractLsb' 0 6 ∧ r.extractLsb' 0 16 = x.extractLsb' 0 16 :=
  ⟨BitVec.extractLsb'_append_eq_left, BitVec.extractLsb'_append_eq_right⟩

/-- RCOUNT is no data for a REPEAT target, neither its bytes nor its word (R364, D18). -/
theorem rcount_refused {a : Word} (h : a = 0x0036#16 ∨ a = 0x0037#16) {sz : Size}
    (hm : misaligned sz a = false) {s : State} (hra : s.sr.ra = true) (v : Word) :
    memRead sz a s = .error (.refused .rcountInRepeat)
      ∧ memWrite sz a v s = .error (.refused .rcountInRepeat) := by
  have hlt : a < 0x0080#16 := by rcases h with rfl | rfl <;> decide
  have hreg : coreRegAt a = .rcount := by rcases h with rfl | rfl <;> rfl
  exact ⟨memRead_core_refused hlt hm (by simp [readHazard, hreg, hra]),
    memWrite_core_refused v hlt hm (by simp [writeHazard, hreg, hra])⟩

/-- DOEND is data where the instruction before is no DO and wrote no DOEND (R493). -/
theorem doend_unhazardous {s : State}
    (h : ∀ e ∈ s.hist.head?, isDo e.instr = false ∧ e.access.wroteDoend = false) :
    ¬ DoendHazard s := by
  unfold DoendHazard previously
  cases hh : s.hist with
  | nil => simp
  | cons e r =>
    obtain ⟨hdo, hw⟩ := h e (by rw [hh]; rfl)
    simp [hdo, hw]

theorem readHazard_doend {a : Word} {s : State} (h : ¬ DoendHazard s)
    (hreg : coreRegAt a = .doendL ∨ coreRegAt a = .doendH) (sz : Size) : readHazard sz a s = none := by
  unfold readHazard
  rcases hreg with hr | hr <;> rw [hr] <;> exact if_neg h

/-! ## INTCON1 (R70) -/

/-- The word at INTCON1's address, where the device gives one in the range of the special function
registers. -/
theorem regionOf_intcon {a : Word} {s : State} (hdev : s.dev.intcon1 = some a)
    (heven : a.getLsbD 0 = false) (hlo : 0x0080#16 ≤ a) (hhi : a < 0x0800#16) :
    regionOf .word a s = .intcon := by
  have hcore : ¬ a < 0x0080#16 := by bv_omega
  have hword : a &&& 0xFFFE#16 = a := fixedW_even heven
  simp [regionOf, hcore, hhi, hdev, hword]

/-- The four bits of R70 in their places; the free bits are others (log entry 29). -/
theorem intconWord_bits (s : State) :
    (intconWord s).getLsbD 15 = s.intcon.nstdis ∧ (intconWord s).getLsbD 10 = s.intcon.ovate
      ∧ (intconWord s).getLsbD 9 = s.intcon.ovbte ∧ (intconWord s).getLsbD 8 = s.intcon.covte := by
  simp only [intconWord, intconHeld, BitVec.getLsbD_or, BitVec.getLsbD_and, BitVec.getLsbD_append,
    BitVec.getLsbD_ofBool]
  simp

theorem memRead_intcon {a : Word} {s : State} (heven : a.getLsbD 0 = false)
    (hr : regionOf .word a s = .intcon) :
    memRead .word a s = .ok (intconWord s, { s with draws := s.draws + 1 }) := by
  have hm : misaligned .word a = false := misaligned_of fun _ => heven
  simp [memRead, hm, hr, accessWord]

theorem memWrite_intcon {a : Word} {s : State} (heven : a.getLsbD 0 = false)
    (hr : regionOf .word a s = .intcon) (v : Word) :
    memWrite .word a v s = .ok (writeIntcon v s) := by
  have hm : misaligned .word a = false := misaligned_of fun _ => heven
  simp [memWrite, hm, hr, mergeWrite]

/-- Settles O20: each register in the order of the statement. -/
theorem special_registers_write : Obligations.special_registers_write := by
  intro v s reads
  refine ⟨⟨readWord .tblpag (by decide) rfl rfl rfl, writeWord .tblpag (by decide) rfl rfl rfl⟩,
    ⟨readWord .psvpag (by decide) rfl rfl rfl, writeWord .psvpag (by decide) rfl rfl rfl⟩,
    ⟨readWord .modcon (by decide) rfl rfl rfl, _, writeWord .modcon (by decide) rfl rfl rfl, rfl,
      modcon_fields v⟩,
    ⟨readWord .xmodsrt (by decide) rfl rfl rfl, _, writeWord .xmodsrt (by decide) rfl rfl rfl, rfl,
      cleared_fields v⟩,
    ⟨readWord .xmodend (by decide) rfl rfl rfl, _, writeWord .xmodend (by decide) rfl rfl rfl, rfl,
      set_fields v⟩,
    ⟨readWord .ymodsrt (by decide) rfl rfl rfl, _, writeWord .ymodsrt (by decide) rfl rfl rfl, rfl,
      cleared_fields v⟩,
    ⟨readWord .ymodend (by decide) rfl rfl rfl, _, writeWord .ymodend (by decide) rfl rfl rfl, rfl,
      set_fields v⟩,
    ⟨readWord .xbrev (by decide) rfl rfl rfl, writeWord .xbrev (by decide) rfl rfl rfl⟩,
    fun hra => ⟨readWord .rcount (by decide) rfl (by simp [readHazard, coreRegAt, hra]) rfl,
      writeWord .rcount (by decide) rfl (by simp [writeHazard, coreRegAt, hra]) rfl⟩,
    fun hra a ha => ⟨?_, ?_, ?_⟩,
    ⟨readWord .dcount (by decide) rfl rfl rfl, _, writeWord .dcount (by decide) rfl rfl rfl, rfl⟩,
    ⟨readWord .dostartL (by decide) rfl rfl rfl, _, writeWord .dostartL (by decide) rfl rfl rfl, rfl,
      loopLow_fields s.loop.start v⟩,
    ⟨readWord .dostartH (by decide) rfl rfl rfl, _, writeWord .dostartH (by decide) rfl rfl rfl, rfl,
      loopHigh_fields s.loop.start v⟩,
    ⟨_, writeWord .doendL (by decide) rfl rfl rfl, rfl, loopLow_fields s.loop.stop v⟩,
    ⟨_, writeWord .doendH (by decide) rfl rfl rfl, rfl, loopHigh_fields s.loop.stop v⟩,
    fun h => ⟨readWord .doendL (by decide) rfl (readHazard_doend (doend_unhazardous h) (.inl rfl) _) rfl,
      readWord .doendH (by decide) rfl (readHazard_doend (doend_unhazardous h) (.inr rfl) _) rfl⟩,
    fun h0 => ?_,
    fun h0 => memRead_core_refused (by decide) rfl (by simp [readHazard, coreRegAt, h0]),
    ⟨_, writeWord .disicnt (by decide) rfl rfl rfl, rfl, rfl⟩,
    fun a hdev heven hlo hhi => ?_⟩
  · exact (rcount_refused ha rfl hra v).1
  · exact (rcount_refused ha rfl hra v).2
  · rintro rfl
    exact rcount_refused ha rfl hra v
  · have hread := readWord (s := s) .disicnt (a := 0x0052#16) (by decide) rfl
      (by simp [readHazard, coreRegAt, h0]) rfl
    simp only [readReg, h0] at hread
    exact hread
  · have hr := regionOf_intcon hdev heven hlo hhi
    exact ⟨⟨_, _, memRead_intcon heven hr, rfl, intconWord_bits s⟩, memWrite_intcon heven hr v⟩

end Sys2Proof.Machine

/-! What a reset leaves, and the uninitialised pointers that make one. -/

namespace Sys2Proof.Machine

/-! ## Reset values (R61, R470) -/

theorem getW_reset (n : WReg) : getW n State.reset = if n = 15#4 then 0x0800#16 else 0#16 := by
  revert n; decide

theorem srWord_reset : srWord State.reset = 0#16 := by decide

theorem corconWord_reset : corconWord State.reset = 0x0020#16 := by decide

theorem isInit_reset (n : WReg) : n ≠ 15#4 → isInit n State.reset = false := by
  revert n; decide

/-- Settles O9: a reset makes the state of R61 but for the registers that no rule gives a value, and opening
the boundary touches neither RAM nor program memory. -/
theorem reset_values : Obligations.reset_values := by
  intro s done
  have hreset (u : State) (hram : u.ram = s.ram) (hprog : u.prog = s.prog) : done (deviceReset u) := by
    obtain ⟨hstart, hstop⟩ := freeLoop_even (u.draws + 6)
    obtain ⟨hstart', hstop'⟩ := freeLoop_even (u.draws + 11)
    exact ⟨getW_reset, isInit_reset, rfl, srWord_reset, corconWord_reset, rfl, rfl, rfl, rfl, rfl, rfl,
      rfl, rfl, rfl, rfl, rfl, rfl, hstart, hstop, hstart', hstop', set_bit0 _, set_bit0 _, clear_bit0 _,
      clear_bit0 _, rfl, rfl, rfl, rfl, rfl, hram, hprog⟩
  refine ⟨⟨_, rfl, hreset s rfl rfl⟩, fun hp hr => ⟨_, ?_, hreset (openBoundary s) rfl rfl⟩⟩
  simp [step, hp, hr]

/-! ## Uninitialised pointers (R26, R423, R445)

An operation that forms an address from an unmarked register stops with the reset; an instruction that comes
to such an operation, whatever it did before, ends in the reset of the state it began in. -/

/-- The operation stops with the reset of R445. -/
def Uninit {α : Type} (x : Except Stop α) : Prop := ∃ n, x = .error (.uninitReset n)

theorem Uninit.bind {α β : Type} {x : Except Stop α} (h : Uninit x) (f : α → Except Stop β) :
    Uninit (x >>= f) := by
  obtain ⟨n, rfl⟩ := h; exact ⟨n, rfl⟩

/-- After operations that are made, one that stops. -/
theorem Uninit.after {α β : Type} {x : Except Stop α} {a : α} {f : α → Except Stop β} (hx : x = .ok a)
    (h : Uninit (f a)) : Uninit (x >>= f) := by
  subst hx; exact h

theorem Uninit.finish {x : Except Stop State} (h : Uninit x) (s : State) :
    finish s x = .next (deviceReset s) := by
  obtain ⟨n, rfl⟩ := h; rfl

theorem useEA_uninit {role : Role} {n : WReg} {s : State} (h : isInit n s = false) :
    Uninit (useEA role n s) := ⟨n, by simp [useEA, pointerStop, h]⟩

theorem isInit_stepPtr (role : Role) (m n : WReg) (d : Int) (s : State) :
    isInit m (stepPtr role n d s) = isInit m s := by
  unfold stepPtr movePtr
  split
  · rfl
  · simp only
    split <;> split <;> rfl

section Pointer
variable {n : WReg} {m : Mode} {s : State} (hi : isInit n s = false) (hm : m ≠ .direct)
include hi

theorem operandEA_uninit (role : Role) (k : Nat) (m : Mode) : Uninit (operandEA role k m n s) :=
  useEA_uninit (by rw [isInit_stepPtr, hi])

include hm

theorem srcOperand_uninit (sz : Size) : Uninit (srcOperand sz m n s) := by
  rw [srcOperand, if_neg hm]; exact (operandEA_uninit hi ..).bind _

theorem dstOperand_uninit (sz : Size) (v : Word) : Uninit (dstOperand sz m n v s) := by
  rw [dstOperand, if_neg hm]; exact (operandEA_uninit hi ..).bind _

theorem srcDouble_uninit : Uninit (srcDouble m n s) := by
  rw [srcDouble, if_neg hm]; exact (operandEA_uninit hi ..).bind _

theorem dstDouble_uninit (v : BitVec 32) : Uninit (dstDouble m n v s) := by
  rw [dstDouble, if_neg hm]; exact (operandEA_uninit hi ..).bind _

theorem multiply_uninit {wd : WReg} (hd : wd.isEven = true) (sb sm' : Bool) (wb : WReg) :
    Uninit (multiply sb sm' wb wd m n s) :=
  .after (requireEven_even hd) ((srcOperand_uninit hi hm _).bind _)

end Pointer

/-- A source operand that is read leaves the marks. -/
theorem srcOperand_marks {sz : Size} {m : Mode} {n : WReg} {s : State} (h : srcReady sz m n s = true) :
    ∃ v t, srcOperand sz m n s = .ok (v, t) ∧ t.winit = s.winit := by
  obtain ⟨c, k, e⟩ := srcOperand_ready h
  exact ⟨_, _, e, by rw [srcNext_eq]; rfl⟩

/-! ### Prefetches and the write back -/

/-- A register from which the prefetch forms its address is unmarked. -/
def Unmarked (side : Side) (p : PreAccess) (s : State) : Prop :=
  isInit (prefetchReg side p) s = false ∨ (p = .offset ∧ isInit 12#4 s = false)

theorem prefetchEA_uninit {side : Side} {p : PreAccess} {s : State} (h : Unmarked side p s) :
    Uninit (prefetchEA side p s) := by
  cases p with
  | modify q k =>
    rcases h with h | ⟨h, -⟩
    · exact useEA_uninit h
    · cases h
  | offset =>
    simp only [prefetchEA]
    split
    · next h12 =>
      rcases h with h | ⟨-, h⟩
      · exact (useEA_uninit h).bind _
      · rw [h12] at h; cases h
    · exact ⟨_, rfl⟩

theorem prefetchOne_uninit {side : Side} {p : PreAccess} {s : State} (h : Unmarked side p s) :
    Uninit (prefetchOne side p s) := (prefetchEA_uninit h).bind _

theorem prefetchOptEA_uninit {side : Side} {p : PreAccess} {s : State} (h : Unmarked side p s) :
    Uninit (prefetchOptEA side (some p) s) := (prefetchEA_uninit h).bind _

/-- The product may draw, and changes nothing else (R247). -/
theorem dspMul_at (x y : Word) (s : State) : ∃ p k, dspMul x y s = (p, s.at' s.cur k) := by
  unfold dspMul
  split
  · exact ⟨_, s.draws + 1, rfl⟩
  · exact ⟨_, s.draws, rfl⟩

theorem requireDistinct_ok {xd yd : DspReg} {x y : Option PreAccess}
    (h : x = none ∨ y = none ∨ xd ≠ yd) : requireDistinct xd yd x y = .ok () := by
  unfold requireDistinct
  rcases h with rfl | rfl | h <;> simp [*]

section Dsp
variable {s : State} {xd yd : DspReg} {x y : Option PreAccess} {p : PreAccess}

/-- The X address is formed first. -/
theorem multiplyAcc_uninit_x (h : Unmarked .x p s) (hd : y = none ∨ xd ≠ yd)
    (f : Int → Int → Int) (wm wn : WReg) (a : AccId) (b : WriteBack) :
    Uninit (multiplyAcc f wm wn a xd yd (some p) y b s) := by
  obtain ⟨q, k, e⟩ := dspMul_at (getW wm s) (getW wn s) s
  have hx : Unmarked .x p (s.at' s.cur k) := h
  unfold multiplyAcc
  simp only [e]
  exact .after (requireDistinct_ok (.inr hd)) ((prefetchOptEA_uninit hx).bind _)

/-- Then the Y address. -/
theorem multiplyAcc_uninit_y (h : Unmarked .y p s) (hd : x = none ∨ xd ≠ yd)
    (hx : prefetchOptReady .x x s = true) (f : Int → Int → Int) (wm wn : WReg) (a : AccId)
    (b : WriteBack) : Uninit (multiplyAcc f wm wn a xd yd x (some p) b s) := by
  obtain ⟨q, k, e⟩ := dspMul_at (getW wm s) (getW wn s) s
  obtain ⟨c, ex⟩ := (prefetchOpt_ready hx).1 s.cur k
  have hy : Unmarked .y p (s.at' c k) := h
  have hd' : x = none ∨ some p = none ∨ xd ≠ yd := hd.imp id .inr
  unfold multiplyAcc
  simp only [e]
  exact .after (requireDistinct_ok hd') (.after ex ((prefetchOptEA_uninit hy).bind _))

/-- Then the write back's. -/
theorem multiplyAcc_uninit_w13 (h : isInit 13#4 s = false) (hr : movesReady xd yd x y .none s = true)
    (f : Int → Int → Int) (wm wn : WReg) (a : AccId) :
    Uninit (multiplyAcc f wm wn a xd yd x y .w13Inc s) := by
  simp only [movesReady, Bool.and_eq_true, Bool.not_eq_true'] at hr
  obtain ⟨⟨⟨hd, -⟩, hx⟩, hy⟩ := hr
  obtain ⟨q, k, e⟩ := dspMul_at (getW wm s) (getW wn s) s
  obtain ⟨c1, ex⟩ := (prefetchOpt_ready hx).1 s.cur k
  obtain ⟨c2, ey⟩ := (prefetchOpt_ready hy).1 c1 k
  have hi : isInit 13#4 (s.at' c2 k) = false := h
  have hd' : requireDistinct xd yd x y = .ok () := by simp [requireDistinct, hd]
  unfold multiplyAcc
  simp only [e]
  exact .after hd' (.after ex (.after ey ((useEA_uninit hi).bind _)))

theorem distance_uninit_x (h : Unmarked .x p s) (f : Int → Int → Int) (r : DspReg) (a : AccId)
    (q : PreAccess) : Uninit (distance f r a xd p q s) := by
  obtain ⟨v, k, e⟩ := dspMul_at (getW (dspW r) s) (getW (dspW r) s) s
  have hx : Unmarked .x p (s.at' s.cur k) := h
  unfold distance
  simp only [e]
  exact (prefetchOne_uninit hx).bind _

/-- The X prefetch is made before the Y address is formed (R277, log entry 64). -/
theorem distance_uninit_y (h : Unmarked .y p s) {q : PreAccess}
    (hx : prefetchReady .x q s = true) (f : Int → Int → Int) (r : DspReg) (a : AccId) :
    Uninit (distance f r a xd q p s) := by
  obtain ⟨v, k, e⟩ := dspMul_at (getW (dspW r) s) (getW (dspW r) s) s
  obtain ⟨c, ex⟩ := prefetchOne_ready hx s.cur k
  have hy : Unmarked .y p ((prefetchNext .x q s).at' c k) := by
    rw [show prefetchNext .x q s = { s with w := (prefetchNext .x q s).w } from moved_eq ..]
    exact h
  unfold distance
  simp only [e]
  exact .after ex ((prefetchOne_uninit hy).bind _)

end Dsp

/-- Settles O10: each instruction comes to the operation over the unmarked pointer with nothing refused
before. -/
theorem uninit_pointer_resets : Obligations.uninit_pointer_resets := by
  intro s resets
  refine ⟨fun n m _ hi hm => ⟨fun sz wb wd dm => ⟨?_, ?_⟩, fun wd => ⟨?_, ?_⟩, ?mul, fun r => ⟨?_, ?_⟩,
    fun a wb sh => ⟨?_, ?_, ?_, ?_⟩, ?dest⟩, fun a xd yd x y => ?dsp⟩
  · exact ((srcOperand_uninit hi hm sz).bind _).finish s
  · exact ((srcOperand_uninit hi hm sz).bind _).finish s
  · exact ((srcOperand_uninit hi hm .byte).bind _).finish s
  · exact ((srcOperand_uninit hi hm .byte).bind _).finish s
  case mul =>
    intro wb wd hd
    exact ⟨(multiply_uninit hi hm hd ..).finish s, (multiply_uninit hi hm hd ..).finish s,
      (multiply_uninit hi hm hd ..).finish s, (multiply_uninit hi hm hd ..).finish s⟩
  · exact ((srcDouble_uninit hi hm).bind _).finish s
  · exact ((dstDouble_uninit hi hm _).bind _).finish s
  · exact ((srcOperand_uninit hi hm .word).bind _).finish s
  · exact ((srcOperand_uninit hi hm .word).bind _).finish s
  · exact ((dstOperand_uninit hi hm .word _).bind _).finish s
  · exact ((dstOperand_uninit hi hm .word _).bind _).finish s
  case dest =>
    intro sz wb sm ws hs
    obtain ⟨v, t, ev, ht⟩ := srcOperand_marks hs
    have hmov : isInit n t = false := by rw [isInit, ht]; exact hi
    have hadd : isInit n (setAddFlags sz (narrow sz (getW wb s)) v t) = false := hmov
    exact ⟨(Uninit.after ev ((dstOperand_uninit hmov hm sz _).bind _)).finish s,
      (Uninit.after ev ((dstOperand_uninit hadd hm sz _).bind _)).finish s⟩
  case dsp =>
    intro all unmarked
    have hall (b : WriteBack)
        (h : ∀ f wm wn, Uninit (multiplyAcc f wm wn a xd yd x y b s)) : all b := by
      refine ⟨fun _ => ⟨(h ..).finish s, (h ..).finish s, ?_⟩, ?_⟩
      · rintro rfl; exact ⟨(h ..).finish s, (h ..).finish s⟩
      · rintro _ rfl; exact ⟨(h ..).finish s, (h ..).finish s⟩
    refine ⟨?_, ?_, fun h13 hr => hall _ fun f wm wn => multiplyAcc_uninit_w13 h13 hr f wm wn a⟩
    · rintro p b rfl hp hd
      exact ⟨hall b fun f wm wn => multiplyAcc_uninit_x hp hd f wm wn a b,
        fun r q => ⟨(distance_uninit_x hp ..).finish s, (distance_uninit_x hp ..).finish s⟩⟩
    · rintro p b rfl hp hd hx
      refine ⟨hall b fun f wm wn => multiplyAcc_uninit_y hp hd hx f wm wn a b, ?_⟩
      rintro r q rfl
      exact ⟨(distance_uninit_y hp hx ..).finish s, (distance_uninit_y hp hx ..).finish s⟩

end Sys2Proof.Machine

/-! Data memory: alignment, RAM and the PSV window (R92 to R97, R107). -/

namespace Sys2Proof.Machine

/-! ## Alignment (R93, R446) -/

theorem memRead_misaligned {sz : Size} {a : Word} (h : misaligned sz a = true) (s : State) :
    memRead sz a s = .error (.fault .addressError) := if_pos h

theorem memWrite_misaligned {sz : Size} {a : Word} (h : misaligned sz a = true) (v : Word)
    (s : State) : memWrite sz a v s = .error (.fault .addressError) := if_pos h

/-- An aligned read is made or refused: it never ends in a fault. -/
theorem memRead_no_fault {sz : Size} {a : Word} (h : misaligned sz a = false) (s : State)
    (f : Fault) : memRead sz a s ≠ .error (.fault f) := by
  simp only [memRead, h, Bool.false_eq_true, if_false]
  cases regionOf sz a s with
  | core => cases readHazard sz a s <;> simp
  | psv => cases findCell s.prog (psvAddr a s).toNat <;> simp
  | _ => simp

/-- An aligned write is made or refused: it never ends in a fault. -/
theorem memWrite_no_fault {sz : Size} {a : Word} (h : misaligned sz a = false) (v : Word) (s : State)
    (f : Fault) : memWrite sz a v s ≠ .error (.fault f) := by
  simp only [memWrite, h, Bool.false_eq_true, if_false]
  cases regionOf sz a s with
  | core => cases writeHazard a s <;> simp
  | _ => simp

/-- Settles O11. -/
theorem odd_word_faults : Obligations.odd_word_faults := by
  intro a v s hodd
  have hm : misaligned .word a = true := hodd
  exact ⟨memRead_misaligned hm s, memWrite_misaligned hm v s, memRead_no_fault rfl s _,
    memWrite_no_fault rfl v s _⟩

/-! ## Even addresses -/

/-- The upper byte of a word lies in the same word: only bit 0 of the address changes. -/
theorem even_succ {a : Word} (h : a.getLsbD 0 = false) : a + 1#16 = a ||| 1#16 := by
  refine BitVec.add_eq_or_of_and_eq_zero a 1#16 (BitVec.eq_of_getLsbD_eq fun i hi => ?_)
  cases i <;> simp_all

theorem even_toNat {a : Word} (h : a.getLsbD 0 = false) : a.toNat % 2 = 0 := by
  simpa [BitVec.getLsbD, Nat.testBit_zero] using h

theorem even_succ_toNat {a : Word} (h : a.getLsbD 0 = false) : (a + 1#16).toNat = a.toNat + 1 := by
  have heven := even_toNat h
  bv_omega

/-! ## The PSV window (R107) -/

theorem regionOf_psv {a : Word} {s : State} (hpsv : s.corcon.psv = true)
    (ha : a.getLsbD 15 = true) (sz : Size) : regionOf sz a s = .psv := by
  have hge : 0x8000#16 ≤ a := by
    have := BitVec.msb_eq_true_iff_two_mul_ge.mp (show a.msb = true from ha)
    bv_omega
  have hcore : ¬ a < 0x0080#16 := by bv_omega
  have hsfr : ¬ a < 0x0800#16 := by bv_omega
  simp [regionOf, hcore, hsfr, hpsv, hge]

/-- An aligned read through the window gives the low word of the program word it names (R96, R107). -/
theorem memRead_psv {sz : Size} {a : Word} {w : PWord} {s : State} (hm : misaligned sz a = false)
    (hpsv : s.corcon.psv = true) (ha : a.getLsbD 15 = true)
    (hw : progRead (psvAddr a s) s = some w) :
    ∃ t, memRead sz a s = .ok (accessWord sz a (w.extractLsb' 0 16), t)
      ∧ t = { s with cur := t.cur } := by
  refine ⟨note (fun c => { c with psvRead := true }) s, ?_, rfl⟩
  rw [progRead] at hw
  simp [memRead, hm, regionOf_psv hpsv ha, hw]

/-- Both bytes of a word in the window are of one program word. -/
theorem psvAddr_succ {a : Word} (h : a.getLsbD 0 = false) (s : State) :
    psvAddr (a + 1#16) s = psvAddr a s := by
  have hx : (a + 1#16).extractLsb' 1 14 = a.extractLsb' 1 14 := by
    rw [even_succ h]
    exact BitVec.eq_of_getLsbD_eq fun i hi => by simp [BitVec.getLsbD_extractLsb']
  rw [psvAddr, hx, psvAddr]

/-- Settles O21. -/
theorem psv_read : Obligations.psv_read := by
  intro a w s hpsv hwin heven hw
  have hsucc : (a + 1#16).getLsbD 15 = true ∧ (a + 1#16).getLsbD 0 = true := by
    rw [even_succ heven]; simp [hwin]
  have hw' : progRead (psvAddr (a + 1#16) s) s = some w := by rw [psvAddr_succ heven]; exact hw
  have hword := memRead_psv (sz := .word) heven hpsv hwin hw
  have hlow := memRead_psv (sz := .byte) rfl hpsv hwin hw
  have hhigh := memRead_psv (sz := .byte) rfl hpsv hsucc.1 hw'
  simp only [accessWord, byteAt, heven, hsucc.2, Bool.false_eq_true, if_false, if_true,
    BitVec.extractLsb'_extractLsb'_of_le (show 0 + 8 ≤ 16 by decide),
    BitVec.extractLsb'_extractLsb'_of_le (show 8 + 8 ≤ 16 by decide)] at hword hlow hhigh
  exact ⟨hword, hlow, hhigh⟩

/-! ## Storage (R96 case 5, R97) -/

theorem memRead_storage {sz : Size} {a : Word} {s : State} (hm : misaligned sz a = false)
    (hr : regionOf sz a s = .storage) : memRead sz a s = .ok (storageRead sz a s, s) := by
  simp [memRead, hm, hr]

theorem memWrite_storage {sz : Size} {a v : Word} {s : State} (hm : misaligned sz a = false)
    (hr : regionOf sz a s = .storage) :
    ∃ c, memWrite sz a v s = .ok ((storageWrite sz a v s).at' c s.draws) := by
  have hw : writable sz a s = true := by simp [writable, hm, hr]
  obtain ⟨c, e⟩ := memWrite_ready (v := v) hw
  rw [written, hr] at e
  exact ⟨c, e⟩

/-- An access to plain special function registers is one whose bytes are all of that kind. -/
theorem sfrRegion_storage_iff (sz : Size) (a : Word) (d : Config.Device) :
    sfrRegion sz a d = .storage ↔
      sfrKind d a = some .plain ∧ (sz = .word → sfrKind d (a + 1#16) = some .plain) := by
  unfold sfrRegion
  split
  · next h => simp only [reduceCtorEq, false_iff]; rintro ⟨ha, hs⟩; exact h.2 (by rw [hs h.1, ha])
  · next h =>
    simp only [ne_eq, not_and, not_not] at h
    cases hk : sfrKind d a with
    | none => simp
    | some k => cases k <;> simp_all

/-- Where storage lies (R96): plain special function registers but for INTCON1, and RAM that the PSV window does
not cover. -/
theorem regionOf_storage_iff (sz : Size) (a : Word) (s : State) :
    regionOf sz a s = .storage ↔ ¬ a < 0x0080#16
      ∧ ((a < 0x0800#16 ∧ s.dev.intcon1 ≠ some (a &&& 0xFFFE#16) ∧ sfrRegion sz a s.dev = .storage)
        ∨ (¬ a < 0x0800#16 ∧ ¬ (s.corcon.psv = true ∧ 0x8000#16 ≤ a) ∧ isRam s.dev a = true
          ∧ (sz = .word → isRam s.dev (a + 1#16) = true))) := by
  unfold regionOf
  split
  · next h => simp [h]
  · next h =>
    split
    · next h8 => split <;> simp [*]
    · next h8 =>
      split
      · next hp => simp_all
      · next hp => cases sz <;> split <;> simp_all

/-- Where an aligned word is storage, each of its bytes is. -/
theorem regionOf_storage_bytes {a : Word} {s : State} (ha : a.getLsbD 0 = false)
    (h : regionOf .word a s = .storage) :
    regionOf .byte a s = .storage ∧ regionOf .byte (a + 1#16) s = .storage := by
  have hsucc := even_succ_toNat ha
  have heven := even_toNat ha
  have hmask : (a + 1#16) &&& 0xFFFE#16 = a &&& 0xFFFE#16 := by
    rw [even_succ ha]
    exact BitVec.eq_of_getLsbD_eq fun i hi => by cases i <;> simp
  have hcore : a + 1#16 < 0x0080#16 ↔ a < 0x0080#16 := by
    simp only [BitVec.lt_def, hsucc, BitVec.toNat_ofNat]; omega
  have hsfr : a + 1#16 < 0x0800#16 ↔ a < 0x0800#16 := by
    simp only [BitVec.lt_def, hsucc, BitVec.toNat_ofNat]; omega
  have hpsv : 0x8000#16 ≤ a + 1#16 ↔ 0x8000#16 ≤ a := by
    simp only [BitVec.le_def, hsucc, BitVec.toNat_ofNat]; omega
  simp only [regionOf_storage_iff, sfrRegion_storage_iff, hcore, hsfr, hpsv, hmask, true_imp_iff,
    reduceCtorEq, false_imp_iff, and_true] at h ⊢
  obtain ⟨hc, ⟨hs, hi, hlow, hhigh⟩ | ⟨hs, hp, hlow, hhigh⟩⟩ := h
  · exact ⟨⟨hc, .inl ⟨hs, hi, hlow⟩⟩, hc, .inl ⟨hs, hi, hhigh⟩⟩
  · exact ⟨⟨hc, .inr ⟨hs, hp, hlow⟩⟩, hc, .inr ⟨hs, hp, hhigh⟩⟩

/-- The two bytes of a stored word, the low one at the lower address (R92). -/
theorem storageWrite_bytes {a : Word} (v : Word) {s : State} (hwf : Memory.wf s.ram = true)
    (ha : a.getLsbD 0 = false) :
    let m := (storageWrite .word a v s).ram
    Memory.read m a.toNat = v.extractLsb' 0 8 ∧ Memory.read m (a + 1#16).toNat = v.extractLsb' 8 8 := by
  have hne : a.toNat ≠ (a + 1#16).toNat := by rw [even_succ_toNat ha]; omega
  exact ⟨(Memory.read_write_other _ _ hne).trans (Memory.read_write_same hwf ..),
    Memory.read_write_same (Memory.wf_write hwf ..) ..⟩

theorem storageWrite_memory (a v : Word) (s : State) :
    SameMemoryBut .word a s (storageWrite .word a v s) :=
  fun _ hb => (Memory.read_write_other _ _ (hb.2 rfl)).trans (Memory.read_write_other _ _ hb.1)

/-- Settles O12. -/
theorem ram_word : Obligations.ram_word := by
  intro a v s hwf ha hr
  have hm : misaligned .word a = false := ha
  obtain ⟨hrlow, hrhigh⟩ := regionOf_storage_bytes ha hr
  obtain ⟨c, hw⟩ := memWrite_storage (v := v) hm hr
  obtain ⟨hlow, hhigh⟩ := storageWrite_bytes v hwf ha
  generalize ht : (storageWrite .word a v s).at' c s.draws = t at hw
  have hregion (sz : Size) (b : Word) : regionOf sz b t = regionOf sz b s := by rw [← ht]; rfl
  have hram : t.ram = (storageWrite .word a v s).ram := by rw [← ht]; rfl
  have hword : v.extractLsb' 8 8 ++ v.extractLsb' 0 8 = v :=
    BitVec.extractLsb'_append_extractLsb' (w := 8) (len := 8)
  refine ⟨t, hw, ?_, ?_, ?_, ?_, by rw [← ht]; rfl⟩
  · rw [memRead_storage hm ((hregion ..).trans hr), storageRead, hram, hlow, hhigh, hword]
  · rw [memRead_storage rfl ((hregion ..).trans hrlow), storageRead, hram, hlow]
  · rw [memRead_storage rfl ((hregion ..).trans hrhigh), storageRead, hram, hhigh]
  · intro b hb
    rw [hram, storageWrite_memory a v s b hb]

end Sys2Proof.Machine

/-! MAC, MSC, MPY and MPY.N as a whole (R272 to R276). -/

namespace Sys2Proof.Machine

/-! ## The product (R246, R247) -/

/-- The multiplier gives the exact product, or a free choice among the three of the corner. -/
theorem dspMul_mem_products (x y : Word) (s : State) : (dspMul x y s).1 ∈ products x y s := by
  unfold dspMul products
  by_cases hc : isCorner x y s = true
  · have hcond : s.corcon.us = false ∧ s.corcon.intMode = false ∧ x = 0x8000#16 ∧ y = 0x8000#16 := by
      simpa [isCorner, and_assoc] using hc
    rw [if_pos hc, if_pos hcond]
    change cornerProduct (drawBelow 3 s).1 ∈ _
    match (drawBelow 3 s).1 with
    | 0 | 1 | _ + 2 => simp [cornerProduct]
  · have hcond : ¬ (s.corcon.us = false ∧ s.corcon.intMode = false ∧ x = 0x8000#16
        ∧ y = 0x8000#16) := by
      simpa [isCorner, and_assoc] using hc
    rw [if_neg hc, if_neg hcond]
    simp only [plainProduct, two_mul, List.mem_singleton]

/-! ## What the data moves leave unchanged -/

/-- `t` has the pc and the pending traps of `s`. -/
def SameControl (s t : State) : Prop :=
  t.pc = s.pc ∧ t.stackPending = s.stackPending ∧ t.arithPending = s.arithPending

theorem SameControl.trans {s t u : State} (h : SameControl s t) (h' : SameControl t u) :
    SameControl s u :=
  ⟨h'.1.trans h.1, h'.2.1.trans h.2.1, h'.2.2.trans h.2.2⟩

theorem written_sameControl (sz : Size) (a v : Word) (s : State) :
    SameControl s (written sz a v s) := by
  unfold written
  cases regionOf sz a s with
  | core =>
    simp only
    cases coreRegAt a with
    | w n => cases sz <;> exact ⟨rfl, rfl, rfl⟩
    | accL x | accH x | accU x => cases x <;> exact ⟨rfl, rfl, rfl⟩
    | _ => exact ⟨rfl, rfl, rfl⟩
  | storage => cases sz <;> exact ⟨rfl, rfl, rfl⟩
  | _ => exact ⟨rfl, rfl, rfl⟩

theorem setFetched_frame (r : DspReg) (v : Option Word) (s : State) :
    SameControl s (setFetched r v s) ∧ (setFetched r v s).ram = s.ram
      ∧ (setFetched r v s).sr = s.sr := by
  cases v <;> exact ⟨⟨rfl, rfl, rfl⟩, rfl, rfl⟩

section Moves
variable {x : AccId} {xd yd : DspReg} {px py : Option PreAccess} {b : WriteBack} {s : State}

/-- The two pointer modifications change working registers alone. -/
theorem prefetchMoves_eq (px py : Option PreAccess) (s : State) :
    prefetchOptNext .y py (prefetchOptNext .x px s)
      = { s with w := (prefetchOptNext .y py (prefetchOptNext .x px s)).w } := by
  rw [prefetchOptNext_eq, prefetchOptNext_eq .x]

theorem writeBackNext_sameControl (b : WriteBack) (ea v : Word) (s : State) :
    SameControl s (writeBackNext b ea v s) := by
  cases b with
  | none | w13 => exact ⟨rfl, rfl, rfl⟩
  | w13Inc =>
    refine SameControl.trans (t := moved 13#4 2 s) ?_ (written_sameControl ..)
    rw [moved_eq]; exact ⟨rfl, rfl, rfl⟩

theorem movesNext_sameControl : SameControl s (movesNext x xd yd px py b s) := by
  have hp : SameControl s (prefetchOptNext .y py (prefetchOptNext .x px s)) := by
    rw [prefetchMoves_eq]; exact ⟨rfl, rfl, rfl⟩
  exact hp.trans <| (writeBackNext_sameControl ..).trans <|
    (setFetched_frame ..).1.trans (setFetched_frame ..).1

/-- A write back stores nothing but at W13 (R270). -/
theorem writeBackNext_memory (b : WriteBack) (ea v : Word) (s : State) :
    (b ≠ .w13Inc → SameMemory s (writeBackNext b ea v s))
      ∧ (b = .w13Inc → SameMemoryBut .word ea s (writeBackNext b ea v s)) := by
  cases b with
  | none | w13 => exact ⟨fun _ _ => rfl, nofun⟩
  | w13Inc =>
    refine ⟨fun h => absurd rfl h, fun _ a ha => ?_⟩
    rw [writeBackNext, written_memory _ _ _ _ a ha, moved_eq]

theorem movesNext_memory : WriteBackFrame b s (movesNext x xd yd px py b s) := by
  have hw := writeBackNext_memory b (getW 13#4 s) (writeBackValue x s)
    (prefetchOptNext .y py (prefetchOptNext .x px s))
  rw [WriteBackFrame]
  simp only [SameMemory, SameMemoryBut, movesNext, (setFetched_frame ..).2.1] at hw ⊢
  rw [prefetchMoves_eq] at hw
  rw [prefetchMoves_eq]
  exact hw

/-- Away from the core registers a write back changes W13 alone and no status bit. -/
theorem writeBackNext_other {ea v : Word} {s : State}
    (h : ¬ (b = .w13Inc ∧ regionOf .word ea s = .core)) :
    SameWBut (writeBackRegs b) s (writeBackNext b ea v s) ∧ (writeBackNext b ea v s).sr = s.sr := by
  cases b with
  | none => exact ⟨fun _ _ => rfl, rfl⟩
  | w13 => exact ⟨fun n hn => by
      have hn' : n ≠ 13#4 := by simpa [writeBackRegs] using hn
      rw [writeBackNext, getW_setW, if_neg hn'], rfl⟩
  | w13Inc =>
    have hr : regionOf .word ea (moved 13#4 2 s) ≠ .core := by
      rw [regionOf_moved]; exact fun e => h ⟨rfl, e⟩
    refine ⟨fun n hn => ?_, ?_⟩
    · have hn' : n ≠ 13#4 := by simpa [writeBackRegs] using hn
      rw [writeBackNext, getW_written hr, getW_moved_other _ _ hn']
    · rw [writeBackNext, sr_written hr, moved_eq]

theorem movesNext_other (h : ¬ writeBackIsCore b s) :
    SameWBut (prefetchRegs .x xd px ++ prefetchRegs .y yd py ++ writeBackRegs b) s
        (movesNext x xd yd px py b s)
      ∧ (movesNext x xd yd px py b s).sr = s.sr := by
  have hcore : ¬ (b = .w13Inc ∧ regionOf .word (getW 13#4 s)
      (prefetchOptNext .y py (prefetchOptNext .x px s)) = .core) := by
    rw [prefetchMoves_eq]; exact h
  obtain ⟨hw, hsr⟩ := writeBackNext_other (v := writeBackValue x s) hcore
  refine ⟨fun n hn => ?_, ?_⟩
  · simp only [List.mem_append, not_or] at hn
    obtain ⟨⟨hx, hy⟩, hb⟩ := hn
    rw [movesNext, getW_setFetched hy, getW_setFetched hx, hw n hb, getW_prefetchOptNext hy,
      getW_prefetchOptNext hx]
  · rw [movesNext, (setFetched_frame ..).2.2, (setFetched_frame ..).2.2, hsr, prefetchMoves_eq]

/-! ## The update and the write of SR that wins over it -/

/-- What wins over the update is a write to SR, and nothing where the write back goes elsewhere (D40). -/
theorem writeBackWins_eq (b : WriteBack) (ea v : Word) (s : State) :
    writeBackWins b ea v s = { s with sr := (writeBackWins b ea v s).sr } := by
  unfold writeBackWins; split <;> rfl

theorem writeBackWins_other {ea v : Word} {s : State} (h : ¬ (b = .w13Inc ∧ ea = 0x0042#16)) :
    writeBackWins b ea v s = s := if_neg h

/-- A write of SR with SX or SAB clear leaves SX clear (R41). -/
theorem accS_writeSr (side : AccId) {v : Word} (s : State)
    (h : v.getLsbD (match side with | .accA => 13 | .accB => 12) = false
      ∨ v.getLsbD 10 = false) : accS side (writeSr v s) = false := by
  cases side <;> rcases h with h | h <;> simp only [accS, writeSr, h, Bool.and_false, Bool.false_and]

variable (r : Int)

/-- But for SR and the accumulators, a multiply leaves what its data moves leave. -/
theorem mulNext_fields :
    let t := mulNext r x xd yd px py b s
    let u := movesNext x xd yd px py b s
    t.w = u.w ∧ t.ram = u.ram ∧ t.pc = u.pc ∧ t.stackPending = (accDone x r s u).stackPending
      ∧ t.arithPending = (accDone x r s u).arithPending := by
  obtain ⟨hw, hram, hpc, -⟩ := accDone_fields x r s (movesNext x xd yd px py b s)
  rw [mulNext, writeBackWins_eq]
  exact ⟨hw, hram, hpc, rfl, rfl⟩

theorem mulNext_pc : (mulNext r x xd yd px py b s).pc = s.pc :=
  (mulNext_fields r).2.2.1.trans movesNext_sameControl.1

variable {r}

/-- A multiply whose update may be made raises no trap that R457 refuses. -/
theorem mulNext_nested (h : accReady x r s = true) :
    trapNested s (mulNext r x xd yd px py b s) = false := by
  obtain ⟨-, -, -, hstack, harith⟩ := mulNext_fields (x := x) (xd := xd) (yd := yd) (px := px)
    (py := py) (b := b) (s := s) r
  obtain ⟨-, hs, ha⟩ := movesNext_sameControl (x := x) (xd := xd) (yd := yd) (px := px) (py := py)
    (b := b) (s := s)
  have := accDone_nested h hs ha
  rw [trapNested] at this ⊢
  rw [hstack, harith]
  exact this

theorem mulNext_memory : WriteBackFrame b s (mulNext r x xd yd px py b s) := by
  have h := movesNext_memory (x := x) (xd := xd) (yd := yd) (px := px) (py := py) (b := b) (s := s)
  simp only [WriteBackFrame, SameMemory, SameMemoryBut, (mulNext_fields r).2.1] at h ⊢
  exact h

theorem mulNext_other (h : ¬ writeBackIsCore b s) :
    SameWBut (prefetchRegs .x xd px ++ prefetchRegs .y yd py ++ writeBackRegs b) s
        (mulNext r x xd yd px py b s)
      ∧ OnlyAccStatus s (mulNext r x xd yd px py b s) := by
  obtain ⟨hw, hsr⟩ := movesNext_other (x := x) (xd := xd) (yd := yd) (px := px) (py := py) h
  refine ⟨fun n hn => ?_, ?_⟩
  · rw [← hw n hn, getW, (mulNext_fields r).1, getW]
  · have hsr' : ¬ (b = .w13Inc ∧ getW 13#4 s = 0x0042#16) := fun ⟨hb, he⟩ =>
      h ⟨hb, by rw [he]; rfl⟩
    rw [mulNext, writeBackWins_other hsr', OnlyAccStatus, ← hsr]
    exact (accDone_fields ..).2.2.2

theorem mulNext_writeBackWins (hb : b = .w13Inc) (he : getW 13#4 s = 0x0042#16) :
    ∃ u, mulNext r x xd yd px py b s = writeSr (writeBackValue x s) u :=
  ⟨_, if_pos ⟨hb, he⟩⟩

end Moves

/-- Settles O36: each instruction is a multiply with its own result, `multiplyAcc_ready` says that it is made,
and the lemmas above say what it leaves. -/
theorem multiply_accumulate : Obligations.multiply_accumulate := by
  intro a xd yd x y s done
  have hdone {f : Int → Int → Int} {wm wn : WReg} {b : WriteBack} {i : Instr}
      (hi : exec i s = finish s (multiplyAcc f wm wn a xd yd x y b s)) : done f wm wn b i := by
    intro hmoves hready
    have hp := dspMul_mem_products (getW wm s) (getW wn s) s
    obtain ⟨c, k, hm⟩ := multiplyAcc_ready (f := f) (wm := wm) (wn := wn) hmoves
    have hnested := mulNext_nested (xd := xd) (yd := yd) (px := x) (py := y) (b := b)
      (hready _ hp)
    refine ⟨_, _, hp, (hi.trans (congrArg (finish s) hm)).trans (finish_ok hnested),
      ends_advance 1 (mulNext_pc _) c k, mulNext_memory, mulNext_other, ?_⟩
    intro hb he side hclear
    obtain ⟨u, hu⟩ := mulNext_writeBackWins (r := f (getAcc a s).toInt
      (dspMul (getW wm s) (getW wn s) s).1) (x := a) (xd := xd) (yd := yd) (px := x) (py := y) hb he
    rw [hu]
    exact accS_writeSr side u hclear
  clear_value done
  exact ⟨fun m b => ⟨hdone rfl, hdone rfl, hdone rfl, hdone rfl⟩, fun m => ⟨hdone rfl, hdone rfl⟩⟩

end Sys2Proof.Machine

/-! The countdown of DISICNT (R400, R501 to R506), and what an instruction records as modified and as used
for a source address (R481, R484). -/

namespace Sys2Proof.Machine

/-! ## DISICNT through a step -/

theorem repeatRule_disicnt (i : Instr) (s t : State) : (repeatRule i s t).disicnt = t.disicnt := by
  have hc : (clearFresh i t).disicnt = t.disicnt := by unfold clearFresh; split <;> rfl
  simp only [repeatRule]
  split
  · exact hc
  · split <;> exact hc

theorem endLoop_disicnt {a : PAddr} {t u : State} (h : endLoop a t = .ok u) :
    u.disicnt = t.disicnt := by
  simp only [endLoop] at h
  split at h
  · split at h <;> cases h
    rfl
  · cases h; rfl

theorem doRule_disicnt {i : Instr} {s t u : State} (h : doRule i s t = .ok u) :
    u.disicnt = t.disicnt := by
  unfold doRule at h
  split at h
  · split at h
    · cases h
    · split at h
      · unfold loopDecision at h
        split at h
        · exact endLoop_disicnt h
        · cases h; rfl
      · cases h; rfl
  · cases h; rfl

/-- The loop rules leave DISICNT to the countdown (R400). -/
theorem complete_disicnt {i : Instr} {s t u : State} (hr : t.cur.reset = false)
    (h : complete i s t = .ok u) :
    ∃ v : State, v.disicnt = t.disicnt ∧ u.disicnt = (countDisi i s t v).disicnt := by
  simp only [complete, hr, Bool.false_eq_true, if_false] at h
  obtain ⟨v, hv, h⟩ := bind_ok h
  split at h
  · cases h
  · cases h
    exact ⟨{ v with edt := ageEdt v.edt }, (doRule_disicnt hv).trans (repeatRule_disicnt i s t), rfl⟩

/-- A step that writes DISICNT takes no cycles off it (log entry 24). -/
theorem complete_wroteDisi {i : Instr} {s t u : State} (hw : t.cur.wroteDisi = true)
    (h : complete i s t = .ok u) : u.disicnt = t.disicnt := by
  cases hr : t.cur.reset with
  | true =>
    rw [complete, if_pos hr] at h
    cases h; rfl
  | false =>
    obtain ⟨v, hv, hu⟩ := complete_disicnt hr h
    rw [hu, countDisi, if_pos (.inr hw), hv]

/-- A counter of 14 bits less `c`, stopping at 0. -/
theorem disicnt_less (x : BitVec 14) (c : Nat) :
    (BitVec.ofNat 14 (x.toNat - c)).toNat = x.toNat - c := by
  rw [BitVec.toNat_ofNat, Nat.mod_eq_of_lt (by omega)]

/-- Any other step takes off its cycles, and one or two for a PSV read that costs time (R506). -/
theorem countDisi_less {i : Instr} {s t v : State} (hw : t.cur.wroteDisi = false) :
    let d := (countDisi i s t v).disicnt.toNat
    let c := plainCycles i s t
    (psvCosts s t = false → d = v.disicnt.toNat - c)
      ∧ (psvCosts s t = true → d = v.disicnt.toNat - (c + 1) ∨ d = v.disicnt.toNat - (c + 2)) := by
  by_cases h0 : v.disicnt = 0#14
  · simp [countDisi, h0]
  · have hgo : ¬ (v.disicnt = 0#14 ∨ t.cur.wroteDisi = true) := by simp [h0, hw]
    simp only [countDisi, if_neg hgo]
    refine ⟨fun hp => ?_, fun hp => ?_⟩
    · simp only [hp, Bool.false_eq_true, if_false, disicnt_less]
    · simp only [hp, if_true, drawBelow, disicnt_less]
      rcases Nat.mod_two_eq_zero_or_one (Config.freeNat v.draws) with h | h
      · exact .inl (by rw [h])
      · exact .inr (by rw [h])

/-! ## What a step costs -/

theorem previously_iff (p : Executed → Bool) (s : State) :
    previously p s = true ↔ ∃ e r, s.hist = e :: r ∧ p e = true := by
  unfold previously
  cases s.hist <;> simp

/-- A stall: the instruction just before modified a register that a source address is formed from (R481). -/
theorem stalls_iff (s t : State) : stalls s t = true ↔ s.adjacent = true
    ∧ ∃ e r n, s.hist = e :: r ∧ n ∈ e.access.modified ∧ n ∈ t.cur.sourceEA := by
  simp only [stalls, Bool.and_eq_true, previously_iff, List.any_eq_true, List.contains_iff_mem,
    exists_and_left]

/-- When a read through the PSV window costs time (R108, R506). -/
theorem psvCosts_iff (s t : State) : psvCosts s t = true ↔ t.cur.psvRead = true
    ∧ (s.sr.ra = false ∨ s.rptFresh = true ∨ ∃ e r, s.hist = e :: r ∧ e.instr = .retfie) := by
  simp only [psvCosts, Bool.and_eq_true, Bool.or_eq_true, Bool.not_eq_true', previously_iff,
    beq_iff_eq, or_assoc]

/-- The word passed over is the first of a two-word instruction (R503). -/
theorem skipsTwoWords_iff (s : State) : skipsTwoWords s = true ↔
    ∃ w j, progRead (s.pc + 2#23) s = some w
      ∧ decode w (progRead (s.pc + 4#23) s) = .ok j ∧ j.words = 2 := by
  have h2 : ahead 1 s.pc = s.pc + 2#23 := rfl
  have h4 : ahead 1 (s.pc + 2#23) = s.pc + 4#23 := by rw [← h2, ahead_ahead]; rfl
  unfold skipsTwoWords instrAt
  rw [h2, h4]
  cases progRead (s.pc + 2#23) s with
  | none => simp
  | some w => cases hd : decode w (progRead (s.pc + 4#23) s) <;> simp [hd]

theorem baseCycles_btsc (k : BitVec 4) (f : BitVec 12) (s t : State) :
    baseCycles (.btsc k f) s t
      = if t.pc = s.pc + 4#23 then (if skipsTwoWords s then 3 else 2) else 1 := by
  have hs : skipped (.btsc k f) s t = true ↔ t.pc = s.pc + 4#23 := beq_iff_eq
  have hb : baseCycles (.btsc k f) s t
      = if skipped (.btsc k f) s t then (if skipsTwoWords s then 3 else 2) else 1 := rfl
  simp only [hb, hs]

/-! ## The record of the instruction under way

`modified` and `sourceEA` only grow while an instruction runs. -/

/-- `t` records the modified registers and the source pointers that `s` records. -/
def SameRecord (s t : State) : Prop :=
  t.cur.modified = s.cur.modified ∧ t.cur.sourceEA = s.cur.sourceEA

theorem memRead_record {sz : Size} {a v : Word} {s t : State} (h : memRead sz a s = .ok (v, t)) :
    SameRecord s t := by
  unfold memRead at h
  split at h
  · cases h
  · cases hr : regionOf sz a s <;> simp only [hr] at h
    case core => split at h <;> cases h; exact ⟨rfl, rfl⟩
    case psv => split at h <;> cases h; exact ⟨rfl, rfl⟩
    all_goals cases h <;> exact ⟨rfl, rfl⟩

theorem noteCoreWrite_modified (sz : Size) (a : Word) (s : State) :
    (noteCoreWrite sz a s).cur.modified = s.cur.modified := by
  unfold noteCoreWrite; split <;> rfl

theorem writeReg_modified (r : CoreReg) (wide : Bool) (v : Word) {n : WReg} {s : State}
    (hn : n ∈ s.cur.modified) : n ∈ (writeReg r wide v s).cur.modified := by
  cases r with
  | w m => cases wide <;> exact List.mem_cons_of_mem m hn
  | accL x | accH x | accU x => cases x <;> exact hn
  | _ => exact hn

/-- A data write takes no register off the record. -/
theorem memWrite_modified {sz : Size} {a v : Word} {n : WReg} {s t : State}
    (h : memWrite sz a v s = .ok t) (hn : n ∈ s.cur.modified) : n ∈ t.cur.modified := by
  unfold memWrite at h
  split at h
  · cases h
  · cases hr : regionOf sz a s <;> simp only [hr] at h
    case core =>
      split at h <;> cases h
      rw [noteCoreWrite_modified]; exact writeReg_modified _ _ _ hn
    case storage =>
      cases h
      split <;> cases sz <;> exact hn
    all_goals cases h <;> exact hn

/-- An address that is formed is on the record of its role (R481). -/
theorem useEA_cur {role : Role} {n : WReg} {ea : Word} {s t : State}
    (h : useEA role n s = .ok (ea, t)) : t.cur = (noteEA role n s).cur := by
  unfold useEA at h
  split at h <;> cases h
  unfold stackCheck
  split <;> rfl

theorem movePtr_cur (role : Role) (n : WReg) (d : Int) (s : State) :
    (movePtr role n d s).cur
      = if role = .dest then { s.cur with modified := n :: s.cur.modified } else s.cur := by
  simp only [movePtr]
  split <;> split <;> rfl

/-- A source pointer's own move is none that R484 counts. -/
theorem stepPtr_source_cur (n : WReg) (d : Int) (s : State) :
    (stepPtr .source n d s).cur = s.cur := by
  unfold stepPtr
  split
  · rfl
  · rw [movePtr_cur]; rfl

/-- An indirect source forms an address from its register (R481). -/
theorem srcOperand_sourceEA {sz : Size} {m : Mode} {n : WReg} {v : Word} {s t : State}
    (hm : m ≠ .direct) (h : srcOperand sz m n s = .ok (v, t)) : n ∈ t.cur.sourceEA := by
  rw [srcOperand, if_neg hm] at h
  obtain ⟨⟨ea, u⟩, hu, h⟩ := bind_ok h
  obtain ⟨⟨x, w⟩, hw, h⟩ := bind_ok h
  cases h
  rw [stepPtr_source_cur, (memRead_record hw).2, useEA_cur hu]
  exact List.mem_cons_self

/-- A direct destination is modified, and forms no address (R481). -/
theorem setWSized_record (sz : Size) (n : WReg) (v : Word) (s : State) :
    n ∈ (setWSized sz n v s).cur.modified
      ∧ (setWSized sz n v s).cur.sourceEA = s.cur.sourceEA := by
  cases sz <;> exact ⟨List.mem_cons_self, rfl⟩

theorem push_modified {v : Word} {s t : State} (h : push .dest v s = .ok t) :
    15#4 ∈ t.cur.modified := by
  obtain ⟨⟨ea, u⟩, -, h⟩ := bind_ok h
  refine memWrite_modified h ?_
  rw [movePtr_cur]
  exact List.mem_cons_self

/-- A pop counts as no modification of W15 (R484). -/
theorem pop_modified {v : Word} {s t : State} (h : pop s = .ok (v, t)) :
    t.cur.modified = s.cur.modified := by
  obtain ⟨⟨ea, u⟩, hu, h⟩ := bind_ok h
  rw [(memRead_record h).1, useEA_cur hu, noteEA, note_cur, movePtr_cur]
  rfl

/-! ## W15 makes no reset

W15 needs no initialised mark (R26), so no push and no pop resets the device. -/

theorem not_uninit_bind {α β : Type} {x : Except Stop α} {f : α → Except Stop β}
    (hx : ¬ Uninit x) (hf : ∀ a, ¬ Uninit (f a)) : ¬ Uninit (x >>= f) := by
  cases x with
  | ok a => exact hf a
  | error e => exact fun ⟨n, h⟩ => hx ⟨n, by cases h; rfl⟩

theorem not_uninit_ok {α : Type} (a : α) : ¬ Uninit (.ok a) := by simp [Uninit]

theorem memRead_not_uninit (sz : Size) (a : Word) (s : State) : ¬ Uninit (memRead sz a s) := by
  rintro ⟨n, h⟩
  unfold memRead at h
  split at h
  · cases h
  · cases hr : regionOf sz a s <;> simp only [hr] at h
    case core | psv => split at h <;> cases h
    all_goals cases h

theorem memWrite_not_uninit (sz : Size) (a v : Word) (s : State) : ¬ Uninit (memWrite sz a v s) := by
  rintro ⟨n, h⟩
  unfold memWrite at h
  split at h
  · cases h
  · cases hr : regionOf sz a s <;> simp only [hr] at h
    case core => split at h <;> cases h
    all_goals cases h

theorem useEA_stack_not_uninit (role : Role) (s : State) : ¬ Uninit (useEA role 15#4 s) := by
  rintro ⟨n, h⟩
  have hi : isInit 15#4 s = true := rfl
  unfold useEA at h
  split at h
  · next e he =>
    cases h
    simp only [pointerStop, hi, Bool.not_true, Bool.false_eq_true, if_false] at he
    split at he
    · cases he
    · split at he <;> cases he
  · cases h

theorem push_not_uninit (role : Role) (v : Word) (s : State) : ¬ Uninit (push role v s) :=
  not_uninit_bind (useEA_stack_not_uninit role s) fun _ => memWrite_not_uninit _ _ _ _

theorem pop_not_uninit (s : State) : ¬ Uninit (pop s) :=
  not_uninit_bind (useEA_stack_not_uninit _ _) fun _ => memRead_not_uninit _ _ _

/-- An instruction that cannot reset comes to a next state by its own rule alone. -/
theorem finish_next_ok {x : Except Stop State} {s t : State} (hx : ¬ Uninit x)
    (h : finish s x = .next t) : x = .ok t := by
  rcases finish_next h with ⟨he, -⟩ | ⟨hu, -⟩
  · exact he
  · exact absurd hu hx

/-! ## Instructions (R481, R484) -/

theorem runInstr_next {i : Instr} {s u : State} (h : runInstr i s = .next u) :
    ∃ t, exec i (resumeTarget s) = .next t ∧ complete i (resumeTarget s) t = .ok u := by
  simp only [runInstr] at h
  split at h
  · cases h
  · split at h
    · next t ht =>
      split at h
      · next v hv => cases h; exact ⟨t, ht, hv⟩
      · cases h
    · cases h
    · cases h

theorem disi_next {lit : BitVec 14} {s u : State} (h : runInstr (.disi lit) s = .next u) :
    u.disicnt = lit := by
  obtain ⟨t, ht, hu⟩ := runInstr_next h
  cases ht
  exact complete_wroteDisi rfl hu

theorem mov_record {sz : Size} {wb wd : WReg} {sm : Mode} {ws : WReg} {s t : State}
    (h : exec (.movWsWd sz wb (.plain .direct) wd (.plain sm) ws) s = .next t)
    (hr : t.cur.reset = false) : wd ∈ t.cur.modified ∧ (sm ≠ .direct → ws ∈ t.cur.sourceEA) := by
  rcases finish_next h with ⟨hx, -⟩ | ⟨-, rfl⟩
  · simp only [plainMode, ok_bind] at hx
    obtain ⟨⟨v, u⟩, hu, hx⟩ := bind_ok hx
    cases hx
    obtain ⟨hmod, hsrc⟩ := setWSized_record sz wd v u
    exact ⟨hmod, fun hm => by rw [advance_cur, hsrc]; exact srcOperand_sourceEA hm hu⟩
  · cases hr

theorem call_modified {n1 : BitVec 15} {n2 : BitVec 7} {s t : State}
    (h : exec (.call n1 n2) s = .next t) : 15#4 ∈ t.cur.modified := by
  have hx := finish_next_ok (not_uninit_bind (not_uninit_bind (push_not_uninit _ _ _) fun _ =>
    push_not_uninit _ _ _) fun _ => not_uninit_ok _) h
  obtain ⟨u, hu, hx⟩ := bind_ok hx
  obtain ⟨v, -, hu⟩ := bind_ok hu
  cases hx
  rw [setPc_cur]
  exact push_modified hu

theorem ret_modified {s t : State} (h : exec .ret s = .next t) :
    t.cur.modified = s.cur.modified := by
  have hx := finish_next_ok (not_uninit_bind (pop_not_uninit _) fun _ =>
    not_uninit_bind (pop_not_uninit _) fun _ => not_uninit_ok _) h
  obtain ⟨⟨hi, u⟩, hu, hx⟩ := bind_ok hx
  obtain ⟨⟨lo, v⟩, hv, hx⟩ := bind_ok hx
  cases hx
  exact (pop_modified hv).trans (pop_modified hu)

/-- Settles O55: the countdown takes the step's cycles, which `baseCycles` gives for each instruction; the rest
is what MOV, CALL and RETURN record. -/
theorem disi_countdown : Obligations.disi_countdown := by
  refine ⟨fun lit s u => disi_next, fun i s t u h _ hw => complete_wroteDisi hw h, ?_,
    fun sz wb wd sm ws s t => mov_record, fun n1 n2 s t => call_modified, fun s t => ret_modified⟩
  intro s t hr hw stall depends hstall hfree psvPays takes
  have hstalls : (if stalls s t = true then 1 else 0) = stall := by
    by_cases hd : depends
    · rw [if_pos ((stalls_iff s t).mpr hd), hstall hd]
    · rw [if_neg fun h => hd ((stalls_iff s t).mp h), hfree hd]
  have htakes {c : Nat} {i : Instr} (hc : baseCycles i s t = c) : takes c i := by
    intro u hu
    obtain ⟨v, hv, hdisi⟩ := complete_disicnt hr hu
    have hless := countDisi_less (i := i) (s := s) (v := v) hw
    rw [← hdisi, hv, plainCycles, hstalls, hc] at hless
    exact ⟨fun hp => hless.1 (Bool.eq_false_iff.mpr fun h => hp ((psvCosts_iff s t).mp h)),
      fun hp => hless.2 ((psvCosts_iff s t).mpr hp)⟩
  clear_value takes
  refine ⟨fun _ _ _ => ⟨htakes rfl, htakes rfl⟩, fun _ _ => ⟨htakes rfl, htakes rfl⟩,
    fun _ => ⟨htakes rfl, htakes rfl⟩, fun _ _ => htakes rfl, fun _ _ => htakes rfl, htakes rfl,
    htakes rfl, fun _ _ _ => htakes rfl, fun k f => ?btsc, fun h => ?_, fun h => ?_, ?others⟩
  case btsc =>
    refine ⟨fun hpc => htakes (by rw [baseCycles_btsc, if_neg hpc]), fun hpc => ?_⟩
    exact ⟨fun h => htakes (by rw [baseCycles_btsc, if_pos hpc, if_pos ((skipsTwoWords_iff s).mpr h)]),
      fun h => htakes (by
        rw [baseCycles_btsc, if_pos hpc, if_neg fun h2 => h ((skipsTwoWords_iff s).mp h2)])⟩
  · exact htakes (if_pos (by simpa using h))
  · exact htakes (if_neg (by simpa using h))
  case others =>
    intro i hi
    cases i with
    | movdLoad | movdStore | call | goto | rcall | bra | doLit | doReg | ret | retfie | retlw | btsc
    | nop | tblrdl | tblrdh | tblwtl | tblwth => exact hi.elim
    | _ => exact htakes rfl

end Sys2Proof.Machine

/-! Decoding gives back what was encoded, and what MOV, CALL, RCALL, GOTO and BRA do. -/

namespace Sys2Proof

/-! ## The words of an instruction decode to it (R145 to R149)

The opcode and the operands of a row lie in different bits of its first word, so each field the decoder reads is
the opcode's or one operand's. -/

/-! ### The fields of each shape of operands -/

section Shapes
variable (sz : Size) (wb wd ws : WReg) (a : AccId)

theorem fields_encode3 (dm sm : BitVec 3) :
    let x := encode3 sz wb dm wd sm ws
    field x 15 4 = wb ∧ field x 14 1 = sz.code ∧ field x 11 3 = dm ∧ field x 7 4 = wd
      ∧ field x 4 3 = sm ∧ field x 0 4 = ws ∧ ∀ l k, 19 ≤ l → field x l k = 0#k := by
  refine ⟨?_, ?_, ?_, ?_, ?_, ?_, fun l k h => ?_⟩ <;>
    simp (disch := omega) [encode3, field_or, field_place_same, field_place_off]

theorem fields_encodeW (m : BitVec 3) :
    let x := encodeW wb wd m ws
    field x 11 4 = wb ∧ field x 7 4 = wd ∧ field x 4 3 = m ∧ field x 0 4 = ws
      ∧ ∀ l k, 15 ≤ l → field x l k = 0#k := by
  refine ⟨?_, ?_, ?_, ?_, fun l k h => ?_⟩ <;>
    simp (disch := omega) [encodeW, field_or, field_place_same, field_place_off]

theorem fields_encodeT (dm sm : Mode) :
    let x := encodeT sz dm wd sm ws
    field x 14 1 = sz.code ∧ field x 11 3 = dm.code ∧ field x 7 4 = wd ∧ field x 4 3 = sm.code
      ∧ field x 0 4 = ws ∧ ∀ l k, 15 ≤ l → field x l k = 0#k := by
  refine ⟨?_, ?_, ?_, ?_, ?_, fun l k h => ?_⟩ <;>
    simp (disch := omega) [encodeT, field_or, field_place_same, field_place_off]

/-- Bit 14 and bits 1:0 are left to the opcode and the write back, which tell the multiplies apart. -/
theorem fields_encodeP (xd yd : DspReg) (px py : Option PreAccess) :
    let x := encodeP a xd yd px py
    field x 15 1 = a.code ∧ field x 12 2 = xd.code ∧ field x 10 2 = yd.code
      ∧ field x 6 4 = prefetchCode px ∧ field x 2 4 = prefetchCode py ∧ field x 14 1 = 0#1
      ∧ field x 0 2 = 0#2 ∧ ∀ l k, 16 ≤ l → field x l k = 0#k := by
  refine ⟨?_, ?_, ?_, ?_, ?_, ?_, ?_, fun l k h => ?_⟩ <;>
    simp (disch := omega) [encodeP, field_or, field_place_same, field_place_off]

theorem fields_encodeA (sh : BitVec 4) (m : MovMode) :
    let x := encodeA a wb sh m ws
    field x 15 1 = a.code ∧ field x 11 4 = wb ∧ field x 7 4 = sh ∧ field x 4 3 = m.code
      ∧ field x 0 4 = ws ∧ ∀ l k, 16 ≤ l → field x l k = 0#k := by
  refine ⟨?_, ?_, ?_, ?_, ?_, fun l k h => ?_⟩ <;>
    simp (disch := omega) [encodeA, field_or, field_place_same, field_place_off]

/-- A bit number's two pieces, at both ends of the word, make it whole (R147). -/
theorem fields_encodeBit (bit : BitVec 4) (f : BitVec 12) :
    let x := encodeBit bit f
    field x 0 1 ++ field x 13 3 = bit ∧ field x 1 12 = f ∧ ∀ l k, 16 ≤ l → field x l k = 0#k := by
  have hbit : bit.extractLsb' 3 1 ++ bit.extractLsb' 0 3 = bit := by
    rw [BitVec.extractLsb'_append_extractLsb'_eq_extractLsb' (by rfl)]
    exact BitVec.extractLsb'_eq_self
  refine ⟨?_, ?_, fun l k h => ?_⟩ <;>
    simp (disch := omega) [encodeBit, field_or, field_place_same, field_place_off, hbit]

end Shapes

/-! ### The second words -/

@[simp] theorem targetWord_place (n : BitVec 7) : targetWord (some (place 0 n)) = .ok n := by
  simp [targetWord, field_place_same, field_place_off]

@[simp] theorem offsetWord_place (n : BitVec 16) : offsetWord (some (place 0 n)) = .ok n := by
  simp [offsetWord, field_place_same, field_place_off]

/-- Settles O1: the constructors by the part of the decoder that reads their rows (R149) and the shape of their
operands. -/
theorem decode_encode : Obligations.decode_encode := by
  intro i w2 hw2
  cases i with
  | movWsWd | addWbWsWd => simp [decode, encodeFirst, field_or, field_literal, fields_encode3]
  | bset | btsc => simp [decode, encodeFirst, field_or, field_literal, fields_encodeBit]
  | movFWnd | movLit16Wnd | bra =>
    simp [decode, encodeFirst, field_or, field_literal, field_place_same, field_place_off]
  -- 0000: control flow and loops
  | call | goto | doLit | doReg =>
    obtain rfl := hw2 rfl
    simp [decode, decode0, encodeFirst, encodeSecond, field_or, field_literal, field_place_same,
      field_place_off]
  | rcall | ret | retlw | retfie | nop | repeatLit | repeatReg =>
    simp [decode, decode0, encodeFirst, field_or, field_literal, field_place_same, field_place_off]
  -- 1011: file register, multiply, table and MOV.D rows
  | movWregF | addF | mulF | movdLoad | movdStore =>
    simp [decode, decodeB, encodeFirst, field_or, field_literal, field_place_same, field_place_off]
  | mulUU | mulUS | mulSU | mulSS =>
    simp [decode, decodeB, decodeMul, encodeFirst, field_or, field_literal, fields_encodeW]
  | tblrdl | tblrdh | tblwtl | tblwth =>
    simp [decode, decodeB, decodeTable, encodeFirst, field_or, field_literal, fields_encodeT]
  -- 1100: the DSP rows, the two-register multiplies and then the accumulator rows
  | mac | msc =>
    simp [decode, decodeC, encodeFirst, field_or, field_literal, field_place_same, field_place_off,
      fields_encodeP, writeBack_code_ne]
  | mpy | mpyN =>
    simp [decode, decodeC, encodeFirst, field_or, field_literal, field_place_same, field_place_off,
      fields_encodeP]
  | addWsAcc | lac | sac | sacR =>
    simp [decode, decodeC, encodeFirst, field_or, field_literal, fields_encodeA]
  | addAcc | sftacLit | sftacReg =>
    simp [decode, decodeC, encodeFirst, field_or, field_literal, field_place_same, field_place_off]
  -- 1101: shifts and divides
  | asrLit | asrReg | lsrLit | lsrReg | slLit | slReg =>
    simp [decode, decodeD, decodeShift, encodeFirst, field_or, field_literal, fields_encodeW]
  | divSW | divSD | divUW | divUD =>
    simp [decode, decodeD, decodeDivide, encodeFirst, field_or, field_literal, fields_encodeW]
  | divF =>
    simp [decode, decodeD, encodeFirst, field_or, field_literal, field_place_same, field_place_off]
  -- 1111: square multiplies, the Euclidean distance, and the rest of its rows
  | macSquare | mpySquare =>
    simp [decode, decodeF, decodeSquare, encodeFirst, field_or, field_literal, field_place_same,
      field_place_off, fields_encodeP]
  | ed | edac =>
    have hy : DspReg.w4.code = 0#2 := rfl
    simp [decode, decodeF, decodeSquare, requirePrefetch, encodeFirst, field_or, field_literal,
      field_place_same, field_place_off, fields_encodeP, hy]
  | lnk | ulnk | se | ze | disi | popS | pushS | pwrsv | reset =>
    simp [decode, decodeF, encodeFirst, field_or, field_literal, field_place_same, field_place_off]

/-- Settles O3: each word is the one the encoder writes for its instruction. -/
theorem words_decode : Obligations.words_decode :=
  ⟨decode_encode (.movWsWd .word 0#4 (.plain .ind) 1#4 (.plain .direct) 0#4) none nofun,
    decode_encode (.movLit16Wnd 3#16 1#4) none nofun,
    decode_encode (.addWbWsWd .word 3#4 .direct 4#4 .direct 4#4) none nofun,
    decode_encode (.mpy .w4w5 .accA .w4 .w4 none none) none nofun,
    decode_encode (.divSW 0#4 4#4 3#4) none nofun,
    decode_encode (.call 0x100#15 1#7) _ fun _ => rfl,
    decode_encode (.doLit 33#14 3#16) _ fun _ => rfl,
    decode_encode (.disi 3#14) none nofun⟩

/-- Settles O2: CALL, GOTO and the two forms of DO have a second word; a top byte of 0 is a field of 0. -/
theorem second_word_is_nop : Obligations.second_word_is_nop := by
  refine ⟨fun i v w2 hv => ?_, fun v w2 => decode_nop ?_ w2⟩
  · cases i with
    | call n1 n2 => exact Laws.SecondWord.call n1 n2 v w2 hv
    | goto n1 n2 => exact Laws.SecondWord.goto n1 n2 v w2 hv
    | doLit lit n => exact Laws.SecondWord.doLit lit n v w2 hv
    | doReg wn n => exact Laws.SecondWord.doReg wn n v w2 hv
    | _ => cases hv
  · exact BitVec.extractLsb'_append_eq_left

end Sys2Proof

namespace Sys2Proof.Machine

/-! ## MOV between registers and memory (R160) -/

theorem srcNext_sameControl (sz : Size) (m : Mode) (n : WReg) (s : State) :
    SameControl s (srcNext sz m n s) := by
  rw [srcNext_eq]; exact ⟨rfl, rfl, rfl⟩

theorem dstNext_sameControl (sz : Size) (m : Mode) (n : WReg) (v : Word) (s : State) :
    SameControl s (dstNext sz m n v s) := by
  by_cases hm : m = .direct
  · rw [dstNext, if_pos hm]
    cases sz <;> exact ⟨rfl, rfl, rfl⟩
  · rw [dstNext, if_neg hm]
    refine SameControl.trans (t := pointerDone (Size.step sz) m n s) ?_ (written_sameControl ..)
    rw [pointerDone_eq]; exact ⟨rfl, rfl, rfl⟩

/-- A source and then a destination operand, both ready, move the pc on and make no trap pending. -/
theorem exec_mov_ready {sz : Size} {dm sm : Mode} {wd ws : WReg} {s : State} (wb : WReg)
    (hsrc : srcReady sz sm ws s = true) (hdst : dstReady sz dm wd (srcNext sz sm ws s) = true) :
    ∃ c k, exec (.movWsWd sz wb (.plain dm) wd (.plain sm) ws) s
      = .next (advance 1
        ((dstNext sz dm wd (srcVal sz sm ws s) (srcNext sz sm ws s)).at' c k)) := by
  obtain ⟨c, k, hread⟩ := srcOperand_ready hsrc
  obtain ⟨c', hwrite⟩ := dstOperand_at (v := srcVal sz sm ws s) hdst c k
  obtain ⟨-, hstack, harith⟩ := (srcNext_sameControl sz sm ws s).trans
    (dstNext_sameControl sz dm wd (srcVal sz sm ws s) (srcNext sz sm ws s))
  have hrun : execMovWsWd sz wb (.plain dm) wd (.plain sm) ws s
      = finish s (.ok (advance 1
        ((dstNext sz dm wd (srcVal sz sm ws s) (srcNext sz sm ws s)).at' c' k))) := by
    simp only [execMovWsWd, plainMode, hread, hwrite, ok_bind, pure_ok]
  exact ⟨c', k, hrun.trans (finish_ok (trapNested_same hstack harith))⟩

/-- Settles O22: the state is the one the ready operands leave, up to the record. -/
theorem mov_result : Obligations.mov_result := by
  intro sz wb dm wd sm ws s hsrc hdst
  obtain ⟨c, k, hexec⟩ := exec_mov_ready wb hsrc hdst
  have hpc : (dstNext sz dm wd (srcVal sz sm ws s) (srcNext sz sm ws s)).pc = s.pc := by
    rw [dstNext_pc, srcNext_pc]
  refine ⟨_, hexec, ends_advance 1 hpc c k, dstNext_frame .., fun hcore => ?_⟩
  obtain ⟨hregs, hsr, -, -⟩ := dstNext_other (v := srcVal sz sm ws s) hcore
  refine ⟨fun n hn => ?_, hsr.trans (by rw [srcNext_eq])⟩
  rw [List.mem_append, not_or] at hn
  exact (hregs n hn.2).trans (getW_srcNext hn.1)

/-! ## CALL, RCALL, GOTO and BRA (R322, R323, R325, R326) -/

/-- A word offset counts instruction words of two addresses each. -/
theorem signExtend_double (n : BitVec 16) :
    (n.signExtend 22 ++ 0#1 : PAddr) = BitVec.ofInt 23 (2 * n.toInt) := by
  have h : (n.signExtend 22 ++ 0#1 : PAddr).toInt = 2 * n.toInt := by
    rw [BitVec.toInt_append, BitVec.toInt_signExtend_of_le (by decide)]
    simp
  rw [← h, BitVec.ofInt_toInt]

theorem relativeTarget_eq (pc : PAddr) (n : BitVec 16) :
    relativeTarget pc n = BitVec.ofInt 23 (pc.toNat + 2 + 2 * n.toInt) := by
  rw [relativeTarget, signExtend_double, BitVec.ofInt_add, BitVec.ofInt_add, BitVec.ofInt_natCast,
    BitVec.ofNat_toNat, BitVec.setWidth_eq]
  rfl

/-- A branch by -1 goes to itself. -/
theorem relativeTarget_self (pc : PAddr) : relativeTarget pc 0xFFFF#16 = pc := by
  have h : ((0xFFFF#16).signExtend 22 ++ 0#1 : PAddr) = 0#23 - 2#23 := by decide
  rw [relativeTarget, h, ahead]
  bv_omega

/-- Two pushes that are made leave all but the working registers and the memory. -/
theorem pushTwo_frame {lo : Word} {s : State} (h : pushTwoReady lo s = true) (hi : Word) :
    let u := pushTwo lo hi s
    u.sr = s.sr ∧ u.corcon = s.corcon ∧ u.dev = s.dev ∧ u.stackPending = s.stackPending
      ∧ u.arithPending = s.arithPending := by
  obtain ⟨-, hframe, -, -⟩ := pushTwo_eq h hi
  rw [hframe]
  exact ⟨rfl, rfl, rfl, rfl, rfl⟩

theorem pushReturn_ready {ret : PAddr} {s : State}
    (h : pushTwoReady (ret.extractLsb' 0 16) s = true) :
    ∃ c, pushReturn ret s = .ok ((pushTwo (ret.extractLsb' 0 16)
      ((ret.extractLsb' 16 7).setWidth 16) s).at' c s.draws) :=
  pushTwo_ready h s.cur s.draws

/-- The jump of CALL and RCALL: where both pushes of the return address `ret` are ready, they are made, no trap
becomes pending, and the pc is the target (R322). -/
theorem pushReturn_jump {ret : PAddr} {s : State} (target : PAddr)
    (h : pushTwoReady (ret.extractLsb' 0 16) s = true) :
    ∃ t, finish s (do let t ← pushReturn ret s; return setPc target t) = .next t
      ∧ Ends target (pushTwo (ret.extractLsb' 0 16) ((ret.extractLsb' 16 7).setWidth 16) s) t
      ∧ StackedTwo (ret.extractLsb' 0 16) ((ret.extractLsb' 16 7).setWidth 16) s t
      ∧ t.sr = s.sr := by
  obtain ⟨c, hpush⟩ := pushReturn_ready h
  obtain ⟨hsr, hcorcon, hdev, hstack, harith⟩ :=
    pushTwo_frame h ((ret.extractLsb' 16 7).setWidth 16)
  have hstacked (t : State) := pushTwo_spec (hi := (ret.extractLsb' 16 7).setWidth 16) (t := t) h
  generalize pushTwo _ _ s = u at *
  refine ⟨setPc target (u.at' c s.draws), ?_, ends_setPc target u c s.draws,
    hstacked _ rfl rfl (congrArg CoreControl.psv hcorcon) hdev, hsr⟩
  rw [hpush]
  exact finish_ok (trapNested_same hstack harith)

/-- Settles O45: CALL and RCALL are the jump above, GOTO and BRA write the pc alone; the targets of RCALL and
BRA are sums of addresses. -/
theorem call_result : Obligations.call_result := by
  refine ⟨fun n1 n2 s => pushReturn_jump (absoluteTarget n1 n2), fun n s => ?_, fun s =>
    ⟨fun n1 n2 => rfl, fun n => ?_, ?_⟩⟩
  · rw [← relativeTarget_eq]
    exact pushReturn_jump (relativeTarget s.pc n)
  · rw [← relativeTarget_eq]; rfl
  · have hself : exec (.bra 0xFFFF#16) s = .next (setPc (relativeTarget s.pc 0xFFFF#16) s) := rfl
    rw [hself, relativeTarget_self]; rfl

end Sys2Proof.Machine

/-! MOV with file registers, literals and double words, SE and ZE, and the shadow registers (R163 to R171,
R175, R176, R185, R186). -/

namespace Sys2Proof.Machine

/-! ## Writes of registers

The record and the draws of the state before a write do not reach what the write leaves of the rest. -/

theorem sameWBut_setW (n : WReg) (v : Word) (s : State) : SameWBut [n] s (setW n v s) := by
  intro m hm
  rw [getW_setW, if_neg (by simpa using hm)]

/-- The state an instruction ends in that writes a register and then advances the pc. -/
theorem ends_setW {p : PAddr} {u : State} (hpc : u.pc = p) (n : WReg) (v : Word) (c : Access)
    (k : Nat) : Ends (ahead 1 p) (setW n v u) (advance 1 (setW n v (u.at' c k))) := by
  subst hpc; rfl

/-- The same with two registers. -/
theorem ends_setW_setW {p : PAddr} {u : State} (hpc : u.pc = p) (m n : WReg) (v w : Word)
    (c : Access) (k : Nat) : Ends (ahead 1 p) (setW m v (setW n w u))
      (advance 1 (setW m v (setW n w (u.at' c k)))) := by
  subst hpc; rfl

/-! ## File registers and literals (R163 to R165) -/

theorem exec_movFWnd_ready {f : BitVec 15} {s : State}
    (h : readable .word (wordFileAddr f) s = true) (wd : WReg) :
    ∃ c k, exec (.movFWnd f wd) s
      = .next (advance 1 (setW wd (readVal .word (wordFileAddr f) s) (s.at' c k))) := by
  obtain ⟨c, k, hread⟩ := memRead_ready h
  have hrun : execMovFWnd f wd s = finish s
      (.ok (advance 1 (setW wd (readVal .word (wordFileAddr f) s) (s.at' c k)))) := by
    simp only [execMovFWnd, hread, ok_bind, pure_ok]
  exact ⟨c, k, hrun.trans (finish_ok (trapNested_same rfl rfl))⟩

theorem exec_movWregF_ready {sz : Size} {f : BitVec 13} {s : State}
    (h : writable sz (fileAddr f) s = true) :
    ∃ c, exec (.movWregF sz f) s
      = .next (advance 1 ((written sz (fileAddr f) (narrow sz (getW 0#4 s)) s).at' c s.draws)) := by
  obtain ⟨c, hwrite⟩ := memWrite_ready (v := narrow sz (getW 0#4 s)) h
  obtain ⟨-, hstack, harith⟩ := written_sameControl sz (fileAddr f) (narrow sz (getW 0#4 s)) s
  have hrun : execMovWregF sz f s = finish s
      (.ok (advance 1 ((written sz (fileAddr f) (narrow sz (getW 0#4 s)) s).at' c s.draws))) := by
    simp only [execMovWregF, hwrite, ok_bind, pure_ok]
  exact ⟨c, hrun.trans (finish_ok (trapNested_same hstack harith))⟩

/-- Settles O26: one read or one write, and the pc; a literal is a register's write alone. -/
theorem mov_file_literal : Obligations.mov_file_literal := by
  refine ⟨fun f wd s h => ?_, fun sz f s h => ?_, fun lit wd s => ?_⟩
  · obtain ⟨c, k, hexec⟩ := exec_movFWnd_ready h wd
    exact ⟨_, hexec, ends_setW rfl .., fun _ => rfl, sameWBut_setW wd _ s⟩
  · obtain ⟨c, hexec⟩ := exec_movWregF_ready h
    exact ⟨_, hexec, ends_advance 1 (written_pc ..) .., written_memory sz _ _ s⟩
  · exact ⟨_, rfl, getW_putW_same .., isInit_setW_same wd lit s, sameWBut_setW wd lit s, rfl⟩

/-! ## The shadow registers (R175, R176) -/

/-- A word write takes no mark away. -/
theorem isInit_setW_keeps {m : WReg} {s : State} (n : WReg) (v : Word) (h : isInit m s = true) :
    isInit m (setW n v s) = true := by
  by_cases hmn : m = n
  · subst hmn; exact isInit_setW_same m v s
  · have hne : n.toNat ≠ m.toNat := fun e => hmn (BitVec.eq_of_toNat_eq e.symm)
    have hmark : isInit m (setW n v s) = isInit m s := by
      change (m == 15#4 || ((s.winit.setIfInBounds n.toNat true)[m.toNat]?).getD true) = _
      rw [Vector.getElem?_setIfInBounds_ne hne]; rfl
    exact hmark.trans h

/-- W0 to W3 written from the shadows `h`. -/
def shadowed (h : Shadow) (s : State) : State :=
  setW 3#4 h.w3 (setW 2#4 h.w2 (setW 1#4 h.w1 (setW 0#4 h.w0 s)))

theorem exec_popS (s : State) :
    exec .popS s = .next (advance 1 (restoreFlags s.shadow (shadowed s.shadow s))) := rfl

theorem getW_shadowed (h : Shadow) (s : State) :
    getW 0#4 (shadowed h s) = h.w0 ∧ getW 1#4 (shadowed h s) = h.w1
      ∧ getW 2#4 (shadowed h s) = h.w2 ∧ getW 3#4 (shadowed h s) = h.w3 := by
  simp [shadowed, getW_setW, fixedW]

theorem getW_shadowed_other (h : Shadow) (s : State) :
    SameWBut [0#4, 1#4, 2#4, 3#4] s (shadowed h s) := by
  intro n hn
  simp only [List.mem_cons, List.not_mem_nil, or_false, not_or] at hn
  simp [shadowed, getW_setW, hn]

theorem isInit_shadowed {n : WReg} (hn : n < 4#4) (h : Shadow) (s : State) :
    isInit n (shadowed h s) = true := by
  have hcases : n = 0#4 ∨ n = 1#4 ∨ n = 2#4 ∨ n = 3#4 := by bv_omega
  rcases hcases with rfl | rfl | rfl | rfl
  · exact isInit_setW_keeps 3#4 _ <| isInit_setW_keeps 2#4 _ <| isInit_setW_keeps 1#4 _ <|
      isInit_setW_same 0#4 _ s
  · exact isInit_setW_keeps 3#4 _ <| isInit_setW_keeps 2#4 _ <| isInit_setW_same 1#4 _ _
  · exact isInit_setW_keeps 3#4 _ <| isInit_setW_same 2#4 _ _
  · exact isInit_setW_same 3#4 _ _

/-- Settles O28: POP.S is the four word writes and the five flags. -/
theorem shadow_result : Obligations.shadow_result := by
  refine ⟨fun s => ⟨_, rfl, rfl, rfl, rfl, rfl, rfl, rfl, rfl, rfl, rfl, rfl, rfl⟩, fun s => ?_⟩
  obtain ⟨h0, h1, h2, h3⟩ := getW_shadowed s.shadow s
  exact ⟨_, exec_popS s, rfl, rfl, h0, h1, h2, h3, fun n hn => isInit_shadowed hn s.shadow s,
    getW_shadowed_other s.shadow s, rfl⟩

/-! ## SE and ZE (R185, R186) -/

/-- A byte that is read stands in the low byte of a word whose high byte is 0 (R161). -/
theorem readVal_byte (a : Word) (s : State) : ∃ b : Byte, readVal .byte a s = b.setWidth 16 := by
  unfold readVal
  cases regionOf .byte a s <;> exact ⟨_, rfl⟩

theorem narrow_byte (v : Word) : narrow .byte v = (v.setWidth 8).setWidth 16 := by
  refine BitVec.eq_of_toNat_eq ?_
  have hand : v.toNat &&& 255 = v.toNat % 2 ^ 8 := Nat.and_two_pow_sub_one_eq_mod v.toNat 8
  simp only [narrow, BitVec.toNat_and, BitVec.toNat_setWidth, BitVec.toNat_ofNat, Nat.reducePow,
    Nat.reduceMod] at hand ⊢
  omega

theorem srcVal_byte (m : Mode) (n : WReg) (s : State) :
    ∃ b : Byte, srcVal .byte m n s = b.setWidth 16 := by
  unfold srcVal
  split
  · exact ⟨_, narrow_byte _⟩
  · exact readVal_byte ..

/-- The sign of a byte fills the high byte of the word. -/
theorem signExtend_byte (b : Byte) :
    b.signExtend 16
      = if b.getLsbD 7 then b.setWidth 16 ||| 0xFF00#16 else b.setWidth 16 := by
  have hmsb : b.getLsbD 7 = b.msb := (BitVec.msb_eq_getLsbD_last b).symm
  have hmask : ∀ i : Fin 16, (0xFF00#16).getLsbD i = decide (8 ≤ i.val) := by decide
  refine BitVec.eq_of_getLsbD_eq fun i hi => ?_
  rw [hmsb, BitVec.getLsbD_signExtend, apply_ite (fun w : Word => w.getLsbD i), BitVec.getLsbD_or,
    BitVec.getLsbD_setWidth, hmask ⟨i, hi⟩]
  rcases Nat.lt_or_ge i 8 with h | h
  · simp [hi, h, Nat.not_le.mpr h]
  · simp [hi, h, Nat.not_lt.mpr h]

/-- An instruction that reads a source and then makes no trap pending ends where its own update `g` leaves
it. -/
theorem srcOperand_finish {sz : Size} {m : Mode} {n : WReg} {s : State}
    (h : srcReady sz m n s = true) (g : Word → State → State)
    (hstack : ∀ v t, (g v t).stackPending = t.stackPending)
    (harith : ∀ v t, (g v t).arithPending = t.arithPending) :
    ∃ c k, finish s (do
        let (v, t) ← srcOperand sz m n s
        return advance 1 (g v t))
      = .next (advance 1 (g (srcVal sz m n s) ((srcNext sz m n s).at' c k))) := by
  obtain ⟨c, k, hread⟩ := srcOperand_ready h
  obtain ⟨-, hs, ha⟩ := srcNext_sameControl sz m n s
  refine ⟨c, k, ?_⟩
  rw [hread]
  exact finish_ok (trapNested_same ((hstack ..).trans hs) ((harith ..).trans ha))

/-- The state an instruction ends in that writes a register and N, Z and C. -/
theorem ends_extend {p : PAddr} {u : State} {r : Status} (hpc : u.pc = p) (hsr : u.sr = r)
    (n : WReg) (v : Word) (fn fz fc : Bool) (c : Access) (k : Nat) :
    Ends (ahead 1 p) { setW n v u with sr := { r with n := fn, z := fz, c := fc } }
      (advance 1 { setW n v (u.at' c k) with sr := { u.sr with n := fn, z := fz, c := fc } }) := by
  subst hpc; subst hsr; rfl

/-- A register written after a source operand is read: the memory stays, and the registers but for that
one and the pointer. -/
theorem setW_srcNext_frame (sz : Size) (m : Mode) (n wd : WReg) (v : Word) (s : State) :
    SameMemory s (setW wd v (srcNext sz m n s))
      ∧ SameWBut (wd :: pointerRegs m n) s (setW wd v (srcNext sz m n s)) := by
  refine ⟨fun _ => by rw [srcNext_eq]; rfl, fun j hj => ?_⟩
  rw [List.mem_cons, not_or] at hj
  rw [getW_setW, if_neg hj.1, getW_srcNext hj.2]

/-- Settles O30: both read a byte and write a register and three flags; the value SE writes is the byte with
its sign spread. -/
theorem extend_result : Obligations.extend_result := by
  intro wd m ws s h b
  obtain ⟨x, hx⟩ : ∃ x : Byte, b = x.setWidth 16 := srcVal_byte m ws s
  have hpc := srcNext_pc .byte m ws s
  have hsr : (srcNext .byte m ws s).sr = s.sr := by rw [srcNext_eq]
  refine ⟨?_, ?_⟩
  · obtain ⟨c, k, hexec⟩ := srcOperand_finish h
      (fun b t => setSignExtendFlags b (setW wd ((b.setWidth 8).signExtend 16) t))
      (fun _ _ => rfl) (fun _ _ => rfl)
    have hsign : (b.setWidth 8).signExtend 16 = if b.getLsbD 7 then b ||| 0xFF00#16 else b := by
      rw [hx, BitVec.setWidth_setWidth_of_le _ (by decide), BitVec.setWidth_eq, signExtend_byte]
      simp
    rw [← hsign]
    obtain ⟨hmem, hregs⟩ := setW_srcNext_frame .byte m ws wd ((b.setWidth 8).signExtend 16) s
    exact ⟨_, hexec, ends_extend hpc hsr wd _ _ _ _ c k, hmem, hregs⟩
  · obtain ⟨c, k, hexec⟩ := srcOperand_finish h (fun b t => setZeroExtendFlags b (setW wd b t))
      (fun _ _ => rfl) (fun _ _ => rfl)
    obtain ⟨hmem, hregs⟩ := setW_srcNext_frame .byte m ws wd b s
    exact ⟨_, hexec, ends_extend hpc hsr wd _ _ _ _ c k, hmem, hregs⟩

/-! ## MOV.D (R170, R171) -/

theorem setPair_append (n : WReg) (lo hi : Word) (s : State) :
    setPair n (hi ++ lo) s = setW (n + 1#4) hi (setW n lo s) := by
  rw [setPair, BitVec.extractLsb'_append_eq_left, BitVec.extractLsb'_append_eq_right]

/-- A double word source that is ready is read, the low word first (R170). -/
theorem srcDouble_ready {m : Mode} {n : WReg} {s : State} (h : doubleReady m n s = true) :
    ∃ c, srcDouble m n s
      = .ok ((doubleVal m n s).2 ++ (doubleVal m n s).1, (doubleNext m n s).at' c s.draws) := by
  by_cases hm : m = .direct
  · have he : n.isEven = true := by simpa only [doubleReady, if_pos hm] using h
    refine ⟨s.cur, ?_⟩
    simp only [srcDouble, doubleVal, doubleNext, if_pos hm, requireEven_even he, ok_bind, pure_ok,
      at_self, getPair]
  · simp only [doubleReady, if_neg hm, noWrap, Bool.and_eq_true, Bool.not_eq_true'] at h
    obtain ⟨⟨⟨⟨hpre, hpost⟩, hp⟩, hlo⟩, hhi⟩ := h
    obtain ⟨c1, hea⟩ := operandEA_ready hpre hp
    obtain ⟨c2, hreadlo⟩ := memRead_word hlo c1 s.draws
    obtain ⟨c3, hreadhi⟩ := memRead_word hhi c2 s.draws
    obtain ⟨c4, hstep⟩ := stepPtr_ready (d := postStep m * 4)
      (s := (pointedAt 4 m n s).at' c3 s.draws) hpost
    refine ⟨c4, ?_⟩
    simp only [srcDouble, doubleVal, doubleNext, if_neg hm, hea, hreadlo, hreadhi, ok_bind, pure_ok,
      hstep, moved_at, at_at, at_draws]
    rfl

/-! ### Two writes, one after the other -/

/-- Below the PSV window the device alone says what lies at an address (R96). -/
theorem regionOf_low {a : Word} (ha : a < 0x8000#16) (sz : Size) {s t : State} (hd : t.dev = s.dev) :
    regionOf sz a t = regionOf sz a s := by
  have hwin : ¬ 0x8000#16 ≤ a := by bv_omega
  simp only [regionOf, hd, hwin, decide_false, Bool.and_false]

theorem written_ra (sz : Size) (a v : Word) (s : State) :
    (written sz a v s).sr.ra = s.sr.ra := by
  unfold written
  cases regionOf sz a s with
  | core =>
    simp only
    cases coreRegAt a with
    | w n => cases sz <;> rfl
    | accL x | accH x | accU x => cases x <;> rfl
    | _ => rfl
  | storage => cases sz <;> rfl
  | _ => rfl

/-- A word written does not move what lies at the next word: PSV, which a write to CORCON sets, decides
only about addresses far above the core registers. -/
theorem regionOf_written_next (a v : Word) (s : State) :
    regionOf .word (a + 2#16) (written .word a v s) = regionOf .word (a + 2#16) s := by
  by_cases hlow : a + 2#16 < 0x8000#16
  · exact regionOf_low hlow _ (written_sameProgram ..).2
  · have habove : 0x800 ≤ a.toNat := by bv_omega
    have hcore : regionOf .word a s ≠ .core := by
      rcases region_above (sz := .word) (s := s) habove with h | h | h <;> rw [h] <;> nofun
    rw [written_not_core hcore]; rfl

theorem writable_written_next {a : Word} {s : State} (h : writable .word (a + 2#16) s = true)
    (v : Word) : writable .word (a + 2#16) (written .word a v s) = true := by
  have hh : writeHazard (a + 2#16) (written .word a v s) = writeHazard (a + 2#16) s := by
    simp only [writeHazard, written_ra]
  rw [writable, regionOf_written_next, hh]
  exact h

theorem writable_pointerDone (sz : Size) (a : Word) (k : Nat) (m : Mode) (n : WReg) (s : State) :
    writable sz a (pointerDone k m n s) = writable sz a s := by
  rw [pointerDone_eq]; rfl

/-- A write that is made after any operation that left the record and the draws changed. -/
theorem memWrite_at {sz : Size} {a : Word} {s : State} (h : writable sz a s = true) (v : Word)
    (c : Access) (k : Nat) :
    ∃ c', memWrite sz a v (s.at' c k) = .ok ((written sz a v s).at' c' k) := by
  obtain ⟨c1, e1⟩ := memWrite_ready (v := v) (s := s.at' c k) h
  obtain ⟨c2, e2⟩ := written_at sz a v s c k
  rw [e2] at e1
  exact ⟨c1, e1⟩

/-- An address in bounds, or not of the stack, raises nothing (R431, R432). -/
theorem stackCheck_ok {n : WReg} {ea : Word} {s : State}
    (h : n ≠ 15#4 ∨ stackBad ea s = false) (role : Role) : stackCheck role n ea s = s := by
  refine if_neg fun hc => ?_
  obtain ⟨hn, -, hb⟩ := hc
  rcases h with h | h
  · exact h hn
  · rw [h] at hb; cases hb

/-- A double word destination that is ready is written, the low word first (R171). -/
theorem dstDouble_ready {m : Mode} {n : WReg} {s : State} (h : doubleDstReady m n s = true)
    (lo hi : Word) :
    ∃ c, dstDouble m n (hi ++ lo) s = .ok ((doubleDstNext m n lo hi s).at' c s.draws) := by
  by_cases hm : m = .direct
  · have he : n.isEven = true := by simpa only [doubleDstReady, if_pos hm] using h
    exact ⟨_, by
      simp only [dstDouble, doubleDstNext, if_pos hm, requireEven_even he, ok_bind, pure_ok,
        setPair_append]
      exact congrArg _ (at_self _).symm⟩
  · simp only [doubleDstReady, if_neg hm, noWrap, Bool.and_eq_true, Bool.or_eq_true, bne_iff_ne,
      Bool.not_eq_true'] at h
    obtain ⟨⟨⟨⟨⟨hpre, hpost⟩, hp⟩, hbound⟩, hlo⟩, hhi⟩ := h
    obtain ⟨c1, hea⟩ := operandEA_ready hpre hp
    have hcheck : stackCheck .dest n (operandAddr 4 m n s + 2#16)
        ((pointedAt 4 m n s).at' c1 s.draws) = (pointedAt 4 m n s).at' c1 s.draws := by
      refine stackCheck_ok (hbound.imp id fun hb => ?_) .dest
      rw [pointedAt_eq]; exact hb
    obtain ⟨c2, hstep⟩ := stepPtr_ready (role := .dest) (d := postStep m * 4)
      (s := (pointedAt 4 m n s).at' c1 s.draws) hpost
    rw [moved_at] at hstep
    rw [← writable_pointerDone .word _ 4 m n s] at hlo hhi
    obtain ⟨c3, hwlo⟩ := memWrite_at hlo lo c2 s.draws
    obtain ⟨c4, hwhi⟩ := memWrite_at (writable_written_next hhi lo) hi c3 s.draws
    refine ⟨c4, ?_⟩
    simp only [dstDouble, doubleDstNext, if_neg hm, hea, hcheck, hstep, ok_bind, at_at, at_draws,
      BitVec.extractLsb'_append_eq_left, BitVec.extractLsb'_append_eq_right]
    exact (congrArg (· >>= _) hwlo).trans hwhi

/-! ### The instructions -/

theorem doubleNext_eq (m : Mode) (n : WReg) (s : State) :
    doubleNext m n s = { s with w := (doubleNext m n s).w } := by
  unfold doubleNext
  split
  · rfl
  · exact pointerDone_eq ..

theorem getW_doubleNext {m : Mode} {n j : WReg} {s : State} (h : j ∉ pointerRegs m n) :
    getW j (doubleNext m n s) = getW j s := by
  unfold doubleNext
  split
  · rfl
  · exact getW_pointerDone h

theorem doubleNext_sameControl (m : Mode) (n : WReg) (s : State) :
    SameControl s (doubleNext m n s) := by
  rw [doubleNext_eq]; exact ⟨rfl, rfl, rfl⟩

theorem doubleDstNext_sameControl (m : Mode) (n : WReg) (lo hi : Word) (s : State) :
    SameControl s (doubleDstNext m n lo hi s) := by
  unfold doubleDstNext
  split
  · exact ⟨rfl, rfl, rfl⟩
  · have hp : SameControl s (pointerDone 4 m n s) := by rw [pointerDone_eq]; exact ⟨rfl, rfl, rfl⟩
    exact (hp.trans (written_sameControl ..)).trans (written_sameControl ..)

theorem exec_movdLoad_ready {m : Mode} {ws : WReg} {s : State} (h : doubleReady m ws s = true)
    (wd : BitVec 3) :
    ∃ c, exec (.movdLoad wd m ws) s = .next (advance 1
      (setW ((wd ++ 0#1) + 1#4) (doubleVal m ws s).2 (setW (wd ++ 0#1) (doubleVal m ws s).1
        ((doubleNext m ws s).at' c s.draws)))) := by
  obtain ⟨c, hread⟩ := srcDouble_ready h
  obtain ⟨-, hstack, harith⟩ := doubleNext_sameControl m ws s
  have hrun : execMovdLoad wd m ws s = finish s (.ok (advance 1
      (setW ((wd ++ 0#1) + 1#4) (doubleVal m ws s).2 (setW (wd ++ 0#1) (doubleVal m ws s).1
        ((doubleNext m ws s).at' c s.draws))))) := by
    simp only [execMovdLoad, hread, ok_bind, pure_ok, setPair_append]
  exact ⟨c, hrun.trans (finish_ok (trapNested_same hstack harith))⟩

theorem exec_movdStore_ready {m : Mode} {wd : WReg} {s : State} (h : doubleDstReady m wd s = true)
    (ws : BitVec 3) :
    ∃ c, exec (.movdStore m wd ws) s = .next (advance 1
      ((doubleDstNext m wd (getW (ws ++ 0#1) s) (getW ((ws ++ 0#1) + 1#4) s) s).at' c s.draws)) := by
  obtain ⟨c, hwrite⟩ := dstDouble_ready h (getW (ws ++ 0#1) s) (getW ((ws ++ 0#1) + 1#4) s)
  obtain ⟨-, hstack, harith⟩ :=
    doubleDstNext_sameControl m wd (getW (ws ++ 0#1) s) (getW ((ws ++ 0#1) + 1#4) s) s
  have hrun : execMovdStore m wd ws s = finish s (.ok (advance 1
      ((doubleDstNext m wd (getW (ws ++ 0#1) s) (getW ((ws ++ 0#1) + 1#4) s) s).at' c
        s.draws))) := by
    simp only [execMovdStore, getPair, hwrite, ok_bind, pure_ok]
  exact ⟨c, hrun.trans (finish_ok (trapNested_same hstack harith))⟩

/-- What a double word destination changes: the two registers, or the bytes of the two words. -/
theorem doubleDstNext_frame (m : Mode) (n : WReg) (lo hi : Word) (s : State) :
    (m = .direct → SameMemory s (doubleDstNext m n lo hi s)
        ∧ SameWBut [n, n + 1#4] s (doubleDstNext m n lo hi s))
      ∧ (m ≠ .direct → ∀ b, outside .word (operandAddr 4 m n s) b →
        outside .word (operandAddr 4 m n s + 2#16) b →
        Memory.read (doubleDstNext m n lo hi s).ram b = Memory.read s.ram b) := by
  refine ⟨fun hm => ?_, fun hm b hlo hhi => ?_⟩
  · rw [doubleDstNext, if_pos hm]
    refine ⟨fun _ => rfl, fun j hj => ?_⟩
    simp only [List.mem_cons, List.not_mem_nil, or_false, not_or] at hj
    rw [getW_setW, if_neg hj.2, getW_setW, if_neg hj.1]
  · rw [doubleDstNext, if_neg hm, written_memory _ _ _ _ b hhi, written_memory _ _ _ _ b hlo,
      pointerDone_eq]

/-- Settles O27: the double word operands by `srcDouble_ready` and `dstDouble_ready`, and their frames. -/
theorem movd_result : Obligations.movd_result := by
  refine ⟨fun wd m ws s h => ?_, fun m wd ws s h => ?_⟩
  · obtain ⟨c, hexec⟩ := exec_movdLoad_ready h wd
    refine ⟨_, hexec, ends_setW_setW (doubleNext_sameControl m ws s).1 .., fun b => ?_,
      fun n hn => ?_⟩
    · rw [doubleNext_eq]; rfl
    · simp only [List.mem_append, List.mem_cons, List.not_mem_nil, or_false, not_or] at hn
      obtain ⟨⟨hlo, hhi⟩, hptr⟩ := hn
      change getW n (setW _ _ (setW _ _ (doubleNext m ws s))) = getW n s
      rw [getW_setW, if_neg hhi, getW_setW, if_neg hlo, getW_doubleNext hptr]
  · obtain ⟨c, hexec⟩ := exec_movdStore_ready h ws
    obtain ⟨hdirect, hindirect⟩ :=
      doubleDstNext_frame m wd (getW (ws ++ 0#1) s) (getW ((ws ++ 0#1) + 1#4) s) s
    exact ⟨_, hexec, ends_advance 1 (doubleDstNext_sameControl ..).1 c s.draws, hdirect, hindirect⟩

end Sys2Proof.Machine

/-! PUSH, POP, LNK and ULNK, and the stack instructions that leave StackError pending (R172, R173, R178
to R181, R423, R431 to R433). -/

namespace Sys2Proof.Machine

/-! ## PUSH and POP in bounds (R172, R173, R178) -/

/-- A push stores at W15 itself, the mode moving it afterwards. -/
theorem operandAddr_push (s : State) : operandAddr 2 .postInc 15#4 s = getW 15#4 s := by
  simp [operandAddr, pointedAt, preStep, moved]

/-- A pop reads at W15 less 2. -/
theorem popAddr_eq (s : State) : popAddr s = (getW 15#4 s - 2#16) &&& 0xFFFE#16 := by
  simp [popAddr, operandAddr, pointedAt, preStep, getW_moved, fixedW, BitVec.sub_eq_add_neg]

theorem popNext_sameControl (s : State) : SameControl s (popNext s) :=
  srcNext_sameControl .word .preDec 15#4 s

theorem getW_popNext {n : WReg} (s : State) (h : n ≠ 15#4) : getW n (popNext s) = getW n s := by
  rw [popNext_moved, getW_moved_other _ _ h]

theorem popTwo_sameControl (s : State) : SameControl s (popTwo s) :=
  (popNext_sameControl s).trans (popNext_sameControl (popNext s))

theorem pushNext_sameControl (v : Word) (s : State) : SameControl s (pushNext v s) :=
  dstNext_sameControl .word .postInc 15#4 v s

/-- The word that was pushed reads back at the old W15. -/
theorem memRead_pushed {v : Word} {p : PAddr} {s t : State} (hwf : Memory.wf s.ram = true)
    (h : pushReady s = true) (ht : Ends p (pushNext v s) t) :
    memRead .word (getW 15#4 s) t = .ok (v, t) := by
  obtain ⟨-, heven, hregion, -⟩ := pushReady_spec h
  rw [pushNext_eq h, moved_eq] at ht
  have hram : t.ram = (storageWrite .word (getW 15#4 s) v s).ram := by rw [ht]; rfl
  have hr : regionOf .word (getW 15#4 s) t = .storage := by rw [ht]; exact hregion
  have hm : misaligned .word (getW 15#4 s) = false := heven
  rw [memRead_storage hm hr, storageRead, hram]
  exact congrArg (fun w => Except.ok (w, t)) (storage_read_word hwf heven v)

/-- Settles O23: PUSH is the MOV of `mov_result` to `[W15++]`. -/
theorem push_result : Obligations.push_result := by
  intro wb ws s hwf h
  obtain ⟨t, hexec, hends, ⟨-, hmem⟩, hother⟩ :=
    mov_result .word wb .postInc 15#4 .direct ws s rfl h
  have hcore : ¬ dstIsCore .word .postInc 15#4 s := by
    intro hc
    have hr := hc.2
    rw [Size.step, operandAddr_push, (pushReady_spec h).2.2.1] at hr
    cases hr
  obtain ⟨hregs, hsr⟩ := hother hcore
  have hw : getW 15#4 t = getW 15#4 (pushNext (getW ws s) s) := by rw [hends]; rfl
  refine ⟨t, hexec, memRead_pushed hwf h hends, ?_, hregs, ?_, hsr⟩
  · rw [hw, getW_pushNext h, if_pos rfl]
  · rw [← operandAddr_push s]; exact hmem nofun

/-- A pop whose read can be made, of anything, free values included: the word, W15 moved, and the request for
StackError where the address is out of bounds (R178, R432, D46). -/
theorem pop_readable {s : State} (hm : moduloOn s = false)
    (hs : previously (fun e => e.access.wroteSplim) s = false)
    (hr : readable .word (popAddr s) (moved 15#4 (-2) s) = true) :
    ∃ c k, pop s = .ok (popVal s, ((popNext s).orStack (popTraps s)).at' c k) := by
  have hmove : movePtr .source 15#4 (-2) s = moved 15#4 (-2) s := by simp [movePtr, wraps, moved]
  have hstop : pointerStop .source 15#4 (moved 15#4 (-2) s) = none := by
    have hinit : isInit 15#4 (moved 15#4 (-2) s) = true := rfl
    have hm' : moduloOn (moved 15#4 (-2) s) = false := by rw [moved_eq]; exact hm
    have hs' : previously (fun e => e.access.wroteSplim) (moved 15#4 (-2) s) = false := by
      rw [moved_eq]; exact hs
    simp [pointerStop, hinit, hm', hs']
  obtain ⟨c1, hea⟩ := useEA_stack hstop (by decide)
  have hbad : stackBad (popAddr s) (moved 15#4 (-2) s) = popTraps s := by rw [moved_eq]; rfl
  change useEA .source 15#4 (moved 15#4 (-2) s) = .ok (popAddr s,
    ((moved 15#4 (-2) s).orStack (stackBad (popAddr s) (moved 15#4 (-2) s))).at' c1 _) at hea
  rw [hbad] at hea
  obtain ⟨c2, k, hread⟩ := memRead_ready
    (s := ((moved 15#4 (-2) s).orStack (popTraps s)).at' c1 (moved 15#4 (-2) s).draws) hr
  refine ⟨c2, k, ?_⟩
  simp only [pop, hmove, hea, hread, ok_bind, popNext_moved]
  rfl

/-- POP is a pop and a word write. -/
theorem exec_pop (wb wd : WReg) (s : State) :
    exec (.movWsWd .word wb (.plain .direct) wd (.plain .preDec) 15#4) s
      = finish s (do
        let (v, t) ← pop s
        return advance 1 (setW wd v t)) := by
  rw [pop_eq]; rfl

/-- PUSH is a push. -/
theorem exec_push (wb ws : WReg) (s : State) :
    exec (.movWsWd .word wb (.plain .postInc) 15#4 (.plain .direct) ws) s
      = finish s (do
        let t ← push .dest (getW ws s) s
        return advance 1 t) := by
  rw [push_eq]; rfl

/-! ## StackError pending (R423, R457)

When an access is out of bounds, and where an instruction ends whose accesses leave `u.orStack true`. -/

/-- An address below 0x0800 is out of bounds (R432). -/
theorem stackBad_iff (ea : Word) (s : State) : stackBad ea s = true ↔ ea.toNat < 0x0800
    ∨ (s.splimEn = true ∧ s.splim.toNat + s.dev.splimSlack < ea.toNat) := by
  rw [stackBad, Bool.or_comm, Bool.or_eq_true, Bool.and_eq_true, decide_eq_true_eq, decide_eq_true_eq]
  rfl

theorem pushTraps_of {s : State}
    (h : stackBad (getW 15#4 s) s = true ∨ (s.splimEn = true ∧ getW 15#4 s = 0xFFFE#16)) :
    pushTraps s = true := by
  rcases h with h | ⟨hen, hw⟩
  · rw [pushTraps, h, Bool.true_or]
  · rw [pushTraps, hen, hw]; exact Bool.or_true _

/-- Below StackError's level an instruction that leaves that trap alone pending is refused none, and answers
its own state (R457). -/
theorem finish_raised {x : Except Stop State} {s t u : State} {p : PAddr}
    (hl : cpuLevel s < stackLevel s) (hx : x = .ok t) (ht : Ends p { u with stackPending := true } t)
    (ha : u.arithPending = s.arithPending) : finish s x = .next t := by
  have hat : t.arithPending = s.arithPending := by rw [ht]; exact ha
  rw [hx]
  exact finish_ok (trapNested_below (.inr hl) (.inl hat))

theorem ends_raised_advance {p : PAddr} {u : State} (hpc : u.pc = p) (c : Access) (k : Nat) :
    Ends (ahead 1 p) { u with stackPending := true } (advance 1 ((u.orStack true).at' c k)) := by
  rw [← raiseStack_orStack]; subst hpc; rfl

theorem ends_raised_setPc (p : PAddr) (u : State) (c : Access) (k : Nat) :
    Ends p { u with stackPending := true } (setPc p ((u.orStack true).at' c k)) := by
  rw [← raiseStack_orStack]; rfl

theorem ends_raised_setW {p : PAddr} {u : State} (hpc : u.pc = p) (n : WReg) (v : Word) (c : Access)
    (k : Nat) : Ends (ahead 1 p) { setW n v u with stackPending := true }
      (advance 1 (setW n v ((u.orStack true).at' c k))) := by
  rw [← raiseStack_orStack]; subst hpc; rfl

theorem ends_raised_setWSized (p : PAddr) (u : State) (sz : Size) (n : WReg) (v : Word) (c : Access)
    (k : Nat) : Ends p { setWSized sz n v u with stackPending := true }
      (setWSized sz n v (setPc p ((u.orStack true).at' c k))) := by
  rw [← raiseStack_orStack]; cases sz <;> rfl

theorem setWSized_arithPending (sz : Size) (n : WReg) (v : Word) (s : State) :
    (setWSized sz n v s).arithPending = s.arithPending := by
  cases sz <;> rfl

/-- POP whose pop leaves StackError pending. -/
theorem exec_pop_raised {s : State} {c : Access} {k : Nat} (hl : cpuLevel s < stackLevel s)
    (hpop : pop s = .ok (popVal s, ((popNext s).orStack (popTraps s)).at' c k))
    (ht : popTraps s = true) (wb wd : WReg) :
    ∃ t, exec (.movWsWd .word wb (.plain .direct) wd (.plain .preDec) 15#4) s = .next t
      ∧ Ends (ahead 1 s.pc) { setW wd (popVal s) (popNext s) with stackPending := true } t := by
  obtain ⟨hpc, -, ha⟩ := popNext_sameControl s
  rw [ht] at hpop
  rw [exec_pop, hpop]
  have hends := ends_raised_setW hpc wd (popVal s) c k
  exact ⟨_, finish_raised hl rfl hends ((setW_arithPending ..).trans ha), hends⟩

/-- Settles O24: in bounds POP is the MOV of `mov_result` from `[--W15]`; below 0x0800 its pop is that of
`pop_readable`. -/
theorem pop_result : Obligations.pop_result := by
  intro wb wd s
  have ha := popAddr_eq s
  rw [← ha]
  intro a v
  refine ⟨fun h => ?_, fun hlow hm hs hr hl => ?_⟩
  · obtain ⟨t, hexec, hends, -⟩ := mov_result .word wb .direct wd .preDec 15#4 s h rfl
    have ht : Ends (ahead 1 s.pc) (setW wd v (popNext s)) t := hends
    have hw (n : WReg) : getW n t = if n = wd then fixedW wd v else getW n (popNext s) := by
      rw [ht, ← getW_setW]; rfl
    refine ⟨t, hexec, (hw wd).trans (if_pos rfl), fun hwd => ?_, ?_, fun n hn => ?_, ?_, ?_⟩
    · rw [hw, if_neg hwd.symm, popNext_moved]; rfl
    · rw [ht]; exact isInit_setW_same wd v (popNext s)
    · simp only [List.mem_cons, List.not_mem_nil, or_false, not_or] at hn
      rw [hw, if_neg hn.2, getW_popNext s hn.1]
    · rw [ht, popNext_eq]; rfl
    · rw [ht, popNext_eq]; rfl
  · obtain ⟨c, k, hpop⟩ := pop_readable hm hs hr
    rw [← popNext_moved]
    exact exec_pop_raised hl hpop ((stackBad_iff ..).mpr (.inl hlow)) wb wd

/-! ## LNK and ULNK in bounds (R180, R181) -/

/-- What LNK does after its push: W14 becomes the frame pointer, and W15 moves by the literal. -/
def linked (lit : BitVec 13) (t : State) : State :=
  let u := setW 14#4 (getW 15#4 t) t
  setW 15#4 (getW 15#4 u + (lit ++ 0#1).setWidth 16) u

/-- What ULNK does before its pop: W15 goes back to the frame pointer. -/
def unlinked (s : State) : State := setW 15#4 (getW 14#4 s) s

theorem exec_lnk (lit : BitVec 13) (s : State) :
    exec (.lnk lit) s = finish s (do
      let t ← push .dest (getW 14#4 s) s
      return advance 1 (linked lit t)) := rfl

theorem exec_ulnk (s : State) :
    exec .ulnk s = finish s (do
      let (v, t) ← pop (unlinked s)
      return advance 1 (setW 14#4 v t)) := rfl

theorem ends_linked {p : PAddr} {u : State} (hpc : u.pc = p) (lit : BitVec 13) (c : Access)
    (k : Nat) : Ends (ahead 1 p) (linked lit u) (advance 1 (linked lit (u.at' c k))) := by
  subst hpc; rfl

theorem ends_raised_linked {p : PAddr} {u : State} (hpc : u.pc = p) (lit : BitVec 13) (c : Access)
    (k : Nat) : Ends (ahead 1 p) { linked lit u with stackPending := true }
      (advance 1 (linked lit ((u.orStack true).at' c k))) := by
  rw [← raiseStack_orStack]; subst hpc; rfl

theorem linked_arithPending (lit : BitVec 13) (s : State) :
    (linked lit s).arithPending = s.arithPending := rfl

theorem exec_lnk_ready {s : State} (h : pushReady s = true) (lit : BitVec 13) :
    ∃ c, exec (.lnk lit) s
      = .next (advance 1 (linked lit ((pushNext (getW 14#4 s) s).at' c s.draws))) := by
  obtain ⟨c, hpush⟩ := push_ready (v := getW 14#4 s) h s.cur s.draws
  obtain ⟨-, hstack, harith⟩ := pushNext_sameControl (getW 14#4 s) s
  rw [at_self] at hpush
  refine ⟨c, ?_⟩
  rw [exec_lnk, hpush]
  exact finish_ok (trapNested_same hstack harith)

theorem exec_ulnk_ready {s : State} (h : popReady (unlinked s) = true) :
    ∃ c k, exec .ulnk s = .next (advance 1
      (setW 14#4 (popVal (unlinked s)) ((popNext (unlinked s)).at' c k))) := by
  obtain ⟨c, k, hpop⟩ := pop_ready h (unlinked s).cur (unlinked s).draws
  obtain ⟨-, hstack, harith⟩ := popNext_sameControl (unlinked s)
  rw [at_self] at hpop
  refine ⟨c, k, ?_⟩
  rw [exec_ulnk, hpop]
  exact finish_ok (trapNested_same hstack harith)

/-- Settles O29: LNK is a push and two register writes, ULNK a register write, a pop and another. -/
theorem frame_result : Obligations.frame_result := by
  refine ⟨fun lit s h => ?_, fun s h => ?_⟩
  · obtain ⟨c, hexec⟩ := exec_lnk_ready h lit
    refine ⟨_, hexec, ends_linked (pushNext_sameControl (getW 14#4 s) s).1 lit c s.draws, ?_⟩
    rw [← operandAddr_push s]
    exact (dstNext_frame .word .postInc 15#4 (getW 14#4 s) s).2 nofun
  · obtain ⟨c, k, hexec⟩ := exec_ulnk_ready h
    have hnext := popNext_eq (unlinked s)
    refine ⟨_, hexec, ends_setW (popNext_sameControl (unlinked s)).1 14#4 _ c k, fun b => ?_,
      fun n hn => ?_, ?_⟩
    · rw [hnext]; rfl
    · simp only [List.mem_cons, List.not_mem_nil, or_false, not_or] at hn
      calc getW n (setW 14#4 (popVal (unlinked s)) (popNext (unlinked s)))
          = getW n (popNext (unlinked s)) := by rw [getW_setW, if_neg hn.1]
        _ = getW n (unlinked s) := getW_popNext _ hn.2
        _ = getW n s := by rw [unlinked, getW_setW, if_neg hn.2]
    · rw [hnext]; rfl

/-! ## The stack instructions that leave StackError pending (R431 to R433, D46) -/

/-! ### Two accesses, one after the other -/

theorem pushNext_written (v : Word) (s : State) :
    pushNext v s = written .word (getW 15#4 s) v (moved 15#4 2 s) := by
  rw [← operandAddr_push s]; rfl

/-- A push stores the same whether StackError is pending or not. -/
theorem pushNext_orStack (v : Word) (s : State) (b : Bool) :
    pushNext v (s.orStack b) = (pushNext v s).orStack b := by
  rw [pushNext_written, pushNext_written, ← written_orStack]; rfl

theorem orStack_orStack (u : State) (a b : Bool) : (u.orStack a).orStack b = u.orStack (a || b) := by
  simp only [State.orStack, Bool.or_assoc]

/-- A push after one that may have raised StackError: no push reads the request or the record. -/
theorem push_made_orStack {v : Word} {u : State} (h : pushMade u = true) (b : Bool) (c : Access)
    (k : Nat) : ∃ c', push .dest v ((u.orStack b).at' c k)
      = .ok (((pushNext v u).orStack (b || pushTraps u)).at' c' k) := by
  obtain ⟨c1, hpush⟩ := push_made (v := v) (s := (u.orStack b).at' c k) h
  obtain ⟨c2, hnext⟩ := dstNext_at .word .postInc 15#4 v (u.orStack b) c k
  have htraps : pushTraps ((u.orStack b).at' c k) = pushTraps u := rfl
  rw [pushNext, hnext, ← pushNext, pushNext_orStack, htraps] at hpush
  rw [← orStack_orStack]
  exact ⟨c1, hpush⟩

/-- The two pushes of CALL and RCALL, with the request where either raises one (R322, R323). -/
theorem pushReturn_made {ret : PAddr} {s : State} (h1 : pushMade s = true)
    (h2 : pushMade (pushNext (ret.extractLsb' 0 16) s) = true) :
    ∃ c, pushReturn ret s = .ok (((pushTwo (ret.extractLsb' 0 16)
      ((ret.extractLsb' 16 7).setWidth 16) s).orStack
        (pushTraps s || pushTraps (pushNext (ret.extractLsb' 0 16) s))).at' c s.draws) := by
  obtain ⟨c1, hlo⟩ := push_made (v := ret.extractLsb' 0 16) h1
  obtain ⟨c2, hhi⟩ := push_made_orStack (v := (ret.extractLsb' 16 7).setWidth 16) h2 (pushTraps s) c1
    s.draws
  refine ⟨c2, ?_⟩
  rw [pushReturn, hlo, ok_bind, hhi, pushTwo]

theorem popReturn_made {s : State} (h1 : popMade s = true) (h2 : popMade (popNext s) = true) :
    ∃ c, popReturn s = .ok (setPc (stackedPc (popHi s) (popLo s))
      (((popTwo s).orStack (popTraps s || popTraps (popNext s))).at' c s.draws)) := by
  obtain ⟨u, c, hhi, hlo⟩ := popTwo_made h1 h2
  refine ⟨c, ?_⟩
  simp only [popReturn, hhi, hlo, ok_bind, pure_ok]

theorem ofBool_getLsbD (v : Word) (i : Nat) : BitVec.ofBool (v.getLsbD i) = v.extractLsb' i 1 := by
  refine BitVec.eq_of_getLsbD_eq fun j hj => ?_
  obtain rfl : j = 0 := by omega
  simp

/-- SRL is restored from the upper byte of the stacked word (R332). -/
theorem srLow_restoreStatus (hi : Word) (s : State) :
    srLow (restoreStatus hi s) = hi.extractLsb' 8 8 := by
  simp only [srLow, restoreStatus, ofBool_getLsbD]
  iterate 5 rw [BitVec.extractLsb'_append_extractLsb'_eq_extractLsb' (by rfl)]

/-- What restoring the status leaves of the state `u` with StackError pending (R332). -/
theorem raised_restoreStatus (p : PAddr) (u : State) (hi : Word) (c : Access) (k : Nat) :
    let t := setPc p (restoreStatus hi ((u.orStack true).at' c k))
    Ends p { { u with sr := t.sr, corcon := t.corcon } with stackPending := true } t
      ∧ srLow t = hi.extractLsb' 8 8 ∧ srHigh t = srHigh u
      ∧ t.corcon = { u.corcon with ipl3 := hi.getLsbD 7 } := by
  rw [← raiseStack_orStack]
  exact ⟨rfl, srLow_restoreStatus hi u, rfl, rfl⟩

theorem returnFromException_made {s : State} (h1 : popMade s = true) (h2 : popMade (popNext s) = true) :
    ∃ c, returnFromException s = .ok (setPc (stackedPc (popHi s) (popLo s)) (restoreStatus (popHi s)
      (((popTwo s).orStack (popTraps s || popTraps (popNext s))).at' c s.draws))) := by
  obtain ⟨u, c, hhi, hlo⟩ := popTwo_made h1 h2
  refine ⟨c, ?_⟩
  simp only [returnFromException, hhi, hlo, ok_bind, pure_ok]

/-! ### The instructions -/

section Raised
variable {s : State} (hl : cpuLevel s < stackLevel s)
include hl

theorem exec_push_raised (hm : pushMade s = true) (ht : pushTraps s = true) (wb ws : WReg) :
    ∃ t, exec (.movWsWd .word wb (.plain .postInc) 15#4 (.plain .direct) ws) s = .next t
      ∧ Ends (ahead 1 s.pc) { pushNext (getW ws s) s with stackPending := true } t := by
  obtain ⟨c, hpush⟩ := push_made (v := getW ws s) hm
  obtain ⟨hpc, -, ha⟩ := pushNext_sameControl (getW ws s) s
  rw [ht] at hpush
  rw [exec_push, hpush]
  have hends := ends_raised_advance hpc c s.draws
  exact ⟨_, finish_raised hl rfl hends ha, hends⟩

theorem exec_lnk_raised (hm : pushMade s = true) (ht : pushTraps s = true) (lit : BitVec 13) :
    ∃ t, exec (.lnk lit) s = .next t
      ∧ Ends (ahead 1 s.pc) { linked lit (pushNext (getW 14#4 s) s) with stackPending := true } t := by
  obtain ⟨c, hpush⟩ := push_made (v := getW 14#4 s) hm
  obtain ⟨hpc, -, ha⟩ := pushNext_sameControl (getW 14#4 s) s
  rw [ht] at hpush
  rw [exec_lnk, hpush]
  have hends := ends_raised_linked hpc lit c s.draws
  exact ⟨_, finish_raised hl rfl hends ((linked_arithPending ..).trans ha), hends⟩

theorem exec_ulnk_raised (hm : popMade (unlinked s) = true) (ht : popTraps (unlinked s) = true) :
    ∃ t, exec .ulnk s = .next t
      ∧ Ends (ahead 1 s.pc) { setW 14#4 (popVal (unlinked s)) (popNext (unlinked s)) with
        stackPending := true } t := by
  obtain ⟨c, hpop⟩ := pop_made hm
  obtain ⟨hpc, -, ha⟩ := popNext_sameControl (unlinked s)
  rw [ht] at hpop
  rw [exec_ulnk, hpop]
  have hends := ends_raised_setW hpc 14#4 (popVal (unlinked s)) c s.draws
  exact ⟨_, finish_raised hl rfl hends ((setW_arithPending ..).trans ha), hends⟩

/-- CALL and RCALL. -/
theorem pushReturn_raised {ret : PAddr} (h1 : pushMade s = true)
    (h2 : pushMade (pushNext (ret.extractLsb' 0 16) s) = true)
    (ht : pushTraps s = true ∨ pushTraps (pushNext (ret.extractLsb' 0 16) s) = true)
    (target : PAddr) :
    ∃ t, finish s (do let t ← pushReturn ret s; return setPc target t) = .next t
      ∧ Ends target { pushTwo (ret.extractLsb' 0 16) ((ret.extractLsb' 16 7).setWidth 16) s with
        stackPending := true } t := by
  obtain ⟨c, hpush⟩ := pushReturn_made h1 h2
  obtain ⟨-, -, ha⟩ := (pushNext_sameControl (ret.extractLsb' 0 16) s).trans
    (pushNext_sameControl ((ret.extractLsb' 16 7).setWidth 16) _)
  rw [(Bool.or_eq_true ..).mpr ht] at hpush
  rw [hpush]
  have hends := ends_raised_setPc target
    (pushTwo (ret.extractLsb' 0 16) ((ret.extractLsb' 16 7).setWidth 16) s) c s.draws
  exact ⟨_, finish_raised hl rfl hends ha, hends⟩

variable (h1 : popMade s = true) (h2 : popMade (popNext s) = true)
  (ht : popTraps s = true ∨ popTraps (popNext s) = true)
include h1 h2 ht

theorem exec_ret_raised :
    ∃ t, exec .ret s = .next t
      ∧ Ends (stackedPc (popHi s) (popLo s)) { popTwo s with stackPending := true } t := by
  obtain ⟨c, hpop⟩ := popReturn_made h1 h2
  rw [(Bool.or_eq_true ..).mpr ht] at hpop
  have hends := ends_raised_setPc (stackedPc (popHi s) (popLo s)) (popTwo s) c s.draws
  exact ⟨_, finish_raised hl hpop hends (popTwo_sameControl s).2.2, hends⟩

theorem exec_retlw_raised {wd : WReg} (hwd : wd ≠ 15#4) (sz : Size) (lit : BitVec 10) :
    ∃ t, exec (.retlw sz lit wd) s = .next t
      ∧ Ends (stackedPc (popHi s) (popLo s))
        { setWSized sz wd (lit.setWidth 16) (popTwo s) with stackPending := true } t := by
  obtain ⟨c, hpop⟩ := popReturn_made h1 h2
  rw [(Bool.or_eq_true ..).mpr ht] at hpop
  have ha := (setWSized_arithPending sz wd (lit.setWidth 16) (popTwo s)).trans
    (popTwo_sameControl s).2.2
  have hends := ends_raised_setWSized (stackedPc (popHi s) (popLo s)) (popTwo s) sz wd
    (lit.setWidth 16) c s.draws
  refine ⟨_, finish_raised hl ?_ hends ha, hends⟩
  rw [if_neg hwd, hpop]
  rfl

theorem exec_retfie_raised :
    ∃ t, exec .retfie s = .next t
      ∧ Ends (stackedPc (popHi s) (popLo s)) { popTwo s with
        sr := t.sr, corcon := t.corcon, stackPending := true } t
      ∧ srLow t = (popHi s).extractLsb' 8 8 ∧ srHigh t = srHigh s
      ∧ t.corcon = { s.corcon with ipl3 := (popHi s).getLsbD 7 } := by
  obtain ⟨c, hpop⟩ := returnFromException_made h1 h2
  rw [(Bool.or_eq_true ..).mpr ht] at hpop
  have hframe := popTwo_eq s
  have hhigh : srHigh (popTwo s) = srHigh s := by rw [hframe]; rfl
  have hcorcon : (popTwo s).corcon = s.corcon := by rw [hframe]
  have ha := (popTwo_sameControl s).2.2
  generalize popTwo s = u at hpop hhigh hcorcon ha ⊢
  obtain ⟨hends, hlow, hhigh', hcorcon'⟩ :=
    raised_restoreStatus (stackedPc (popHi s) (popLo s)) u (popHi s) c s.draws
  exact ⟨_, finish_raised hl hpop hends ha, hends, hlow, hhigh'.trans hhigh, hcorcon ▸ hcorcon'⟩

end Raised

/-- Settles O25: out of bounds a stack access raises, and each instruction is made with the request. -/
theorem push_traps : Obligations.push_traps := by
  intro s hl bad badPush badPop popped pops
  have hpush (u : State) (h : badPush u) : pushTraps u = true :=
    pushTraps_of (h.imp (stackBad_iff ..).mpr id)
  have hpop (u : State) (h : badPop u) : popTraps u = true := (stackBad_iff ..).mpr h
  have hpops (h : badPop s ∨ badPop (popNext s)) : popTraps s = true ∨ popTraps (popNext s) = true :=
    h.imp (hpop s) (hpop (popNext s))
  refine ⟨fun wb ws hm hb => exec_push_raised hl hm (hpush s hb) wb ws, fun wb wd hm hb => ?pop,
    fun lit hm hb => exec_lnk_raised hl hm (hpush s hb) lit,
    fun hm hb => exec_ulnk_raised hl hm (hpop (unlinked s) hb), ?call,
    fun ⟨h1, h2, hb⟩ => exec_ret_raised hl h1 h2 (hpops hb),
    fun sz lit wd hwd ⟨h1, h2, hb⟩ => exec_retlw_raised hl h1 h2 (hpops hb) hwd sz lit,
    fun ⟨h1, h2, hb⟩ => exec_retfie_raised hl h1 h2 (hpops hb)⟩
  case pop =>
    obtain ⟨c, hmade⟩ := pop_made hm
    exact exec_pop_raised hl hmade (hpop s hb) wb wd
  case call =>
    intro k p i hi ret u h1 h2 hb
    have ht := hb.imp (hpush s) (hpush u)
    rcases hi with ⟨n1, n2, rfl, rfl, rfl⟩ | ⟨n, rfl, rfl, rfl⟩
    · exact pushReturn_raised hl h1 h2 ht (absoluteTarget n1 n2)
    · rw [← relativeTarget_eq]
      exact pushReturn_raised hl h1 h2 ht (relativeTarget s.pc n)

end Sys2Proof.Machine

/-! ADD in both forms, BSET and BTSC, the multi-bit shifts and the multiplies (R201 to R234). -/

namespace Sys2Proof.Machine

/-! ## Operands of byte mode (R201)

An operand fits its size: a byte stands in a word whose high byte is 0. -/

theorem setWidth_byte_lt (b : Byte) : (b.setWidth 16).toNat < 2 ^ Size.bits .byte := by
  rw [BitVec.toNat_setWidth_of_le (by decide)]
  exact b.isLt

theorem narrow_lt (sz : Size) (v : Word) : (narrow sz v).toNat < 2 ^ Size.bits sz := by
  cases sz with
  | word => exact v.isLt
  | byte => rw [narrow_byte]; exact setWidth_byte_lt _

theorem readVal_lt (sz : Size) (a : Word) (s : State) :
    (readVal sz a s).toNat < 2 ^ Size.bits sz := by
  cases sz with
  | word => exact BitVec.isLt _
  | byte => obtain ⟨b, hb⟩ := readVal_byte a s; rw [hb]; exact setWidth_byte_lt b

theorem srcVal_lt (sz : Size) (m : Mode) (n : WReg) (s : State) :
    (srcVal sz m n s).toNat < 2 ^ Size.bits sz := by
  unfold srcVal
  split
  · exact narrow_lt ..
  · exact readVal_lt ..

/-! ## The sum and its flags on the integers (R202 to R206) -/

theorem addResult_eq (sz : Size) (a m : Word) :
    addResult sz a m = BitVec.ofNat 16 ((a.toNat + m.toNat) % 2 ^ Size.bits sz) := by
  refine BitVec.eq_of_toNat_eq ?_
  cases sz with
  | word => simp [addResult, narrow, Size.bits]
  | byte =>
    simp only [addResult, narrow_byte, Size.bits, BitVec.toNat_setWidth, BitVec.toNat_add,
      BitVec.toNat_ofNat]
    omega

/-- The sum modulo 2^w is the value of the word that holds it. -/
theorem addResult_toNat (sz : Size) (a m : Word) :
    (addResult sz a m).toNat = (a.toNat + m.toNat) % 2 ^ Size.bits sz := by
  rw [addResult_eq, BitVec.toNat_ofNat]
  cases sz <;> simp only [Size.bits] <;> omega

/-- The sign of an operand that fits its size is its top half. -/
theorem signBit_iff {sz : Size} {v : Word} (h : v.toNat < 2 ^ Size.bits sz) :
    signBit sz v = decide (2 ^ (Size.bits sz - 1) ≤ v.toNat) := by
  have hb : signBit sz v = decide (v.toNat / 2 ^ (Size.bits sz - 1) % 2 = 1) :=
    Nat.testBit_eq_decide_div_mod_eq
  rw [hb]
  cases sz <;> simp only [Size.bits] at h ⊢ <;> exact decide_eq_decide.mpr (by omega)

/-- The signed value of an operand that fits its size: 2^w less when it is in the top half. -/
theorem signedVal_eq {sz : Size} {v : Word} (h : v.toNat < 2 ^ Size.bits sz) :
    signedVal sz v = if 2 ^ (Size.bits sz - 1) ≤ v.toNat then (v.toNat : Int) - 2 ^ Size.bits sz
      else v.toNat := by
  cases sz <;>
    simp only [signedVal, Size.bits, BitVec.toInt_eq_toNat_cond, BitVec.toNat_setWidth] at h ⊢ <;>
    omega

/-- Operands of one sign and a sum of the other are a signed sum out of range (R205). -/
theorem addOverflow_iff {sz : Size} {a m : Word} (ha : a.toNat < 2 ^ Size.bits sz)
    (hm : m.toNat < 2 ^ Size.bits sz) :
    addOverflow sz a m = true ↔ signedVal sz a + signedVal sz m < -2 ^ (Size.bits sz - 1)
      ∨ 2 ^ (Size.bits sz - 1) ≤ signedVal sz a + signedVal sz m := by
  have hr : (addResult sz a m).toNat < 2 ^ Size.bits sz := narrow_lt ..
  rw [addOverflow, signBit_iff ha, signBit_iff hm, signBit_iff hr, signedVal_eq ha, signedVal_eq hm,
    addResult_toNat]
  simp only [Bool.and_eq_true, beq_iff_eq, bne_iff_ne, ne_eq, decide_eq_decide]
  cases sz <;> simp only [Size.bits] at ha hm ⊢ <;> omega

theorem setAddFlags_eq {sz : Size} {a m : Word} (ha : a.toNat < 2 ^ Size.bits sz)
    (hm : m.toNat < 2 ^ Size.bits sz) (s : State) :
    setAddFlags sz a m s = { s with sr := addStatus sz a m s.sr } := by
  have hr : (addResult sz a m).toNat < 2 ^ Size.bits sz := narrow_lt ..
  have hz : (addResult sz a m == 0#16)
      = decide ((a.toNat + m.toNat) % 2 ^ Size.bits sz = 0) := by
    rw [← addResult_toNat, beq_eq_decide]
    exact decide_eq_decide.mpr BitVec.toNat_inj.symm
  have hn := signBit_iff hr
  rw [addResult_toNat] at hn
  have hov := Bool.eq_iff_iff.mpr ((addOverflow_iff ha hm).trans decide_eq_true_iff.symm)
  have hhalf : Size.half sz = Size.bits sz / 2 := by cases sz <;> rfl
  simp only [setAddFlags, addStatus, addCarry, addDigitCarry, hz, hn, hov, hhalf]

/-! ## Flags set in front of a write (R208, log entry 40)

The addresses, and whether a write is made, do not depend on the flags. -/

theorem moved_setAddFlags (n : WReg) (d : Int) (sz : Size) (a m : Word) (s : State) :
    moved n d (setAddFlags sz a m s) = setAddFlags sz a m (moved n d s) := by
  unfold moved; split <;> rfl

theorem operandAddr_setAddFlags (k : Nat) (dm : Mode) (n : WReg) (sz : Size) (a m : Word) (s : State) :
    operandAddr k dm n (setAddFlags sz a m s) = operandAddr k dm n s := by
  unfold operandAddr pointedAt; rw [moved_setAddFlags]; rfl

theorem dstReady_setAddFlags (sz : Size) (dm : Mode) (n : WReg) (a m : Word) (s : State) :
    dstReady sz dm n (setAddFlags sz a m s) = dstReady sz dm n s := by
  unfold dstReady noWrap pointedAt
  rw [operandAddr_setAddFlags, moved_setAddFlags]
  rfl

theorem dstFrame_setAddFlags (sz : Size) (dm : Mode) (n : WReg) (a m : Word) (s t : State) :
    DstFrame sz dm n (setAddFlags sz a m s) t ↔ DstFrame sz dm n s t := by
  unfold DstFrame; rw [operandAddr_setAddFlags]; rfl

theorem dstIsCore_setAddFlags (sz : Size) (dm : Mode) (n : WReg) (a m : Word) (s : State) :
    dstIsCore sz dm n (setAddFlags sz a m s) ↔ dstIsCore sz dm n s := by
  unfold dstIsCore; rw [operandAddr_setAddFlags]; rfl

/-! ## ADD (R210, R211) -/

/-- An instruction whose last update is made and makes no trap pending ends in it, the pc advanced. -/
theorem finish_advance {s t : State} {x : Except Stop State} {c : Access} {k : Nat}
    (hx : x = .ok (t.at' c k)) (h : SameControl s t) :
    finish s (do let t ← x; return advance 1 t) = .next (advance 1 (t.at' c k)) := by
  obtain ⟨-, hstack, harith⟩ := h
  subst hx
  exact finish_ok (trapNested_same hstack harith)

/-- ADD Wb,Ws,Wd with ready operands: source, flags, destination. -/
theorem exec_addWbWsWd_ready {sz : Size} {dm sm : Mode} {wd ws : WReg} {s : State} (wb : WReg)
    (hsrc : srcReady sz sm ws s = true) (hdst : dstReady sz dm wd (srcNext sz sm ws s) = true) :
    let a := narrow sz (getW wb s)
    let m := srcVal sz sm ws s
    ∃ c k, exec (.addWbWsWd sz wb dm wd sm ws) s = .next (advance 1
      ((dstNext sz dm wd (addResult sz a m) (setAddFlags sz a m (srcNext sz sm ws s))).at' c k)) := by
  intro a m
  obtain ⟨c, k, hread⟩ := srcOperand_ready hsrc
  rw [← dstReady_setAddFlags sz dm wd a m] at hdst
  obtain ⟨c', hwrite⟩ := dstOperand_at (v := addResult sz a m) hdst c k
  have hctl : SameControl s (dstNext sz dm wd (addResult sz a m) (setAddFlags sz a m
      (srcNext sz sm ws s))) :=
    (srcNext_sameControl sz sm ws s).trans (dstNext_sameControl sz dm wd _ (setAddFlags sz a m _))
  refine ⟨c', k, ?_⟩
  change execAddWbWsWd sz wb dm wd sm ws s = _
  rw [execAddWbWsWd, hread]
  exact finish_advance hwrite hctl

/-- The state after a file register instruction's destination is written. -/
def fileNext (sz : Size) (d : FileDest) (a v : Word) (s : State) : State :=
  match d with
  | .wreg => setWSized sz 0#4 v s
  | .file => written sz a v s

theorem fileNext_sameControl (sz : Size) (d : FileDest) (a v : Word) (s : State) :
    SameControl s (fileNext sz d a v s) := by
  cases d with
  | wreg => exact dstNext_sameControl sz .direct 0#4 v s
  | file => exact written_sameControl sz a v s

/-- A file register instruction's destination is written where the register can be. -/
theorem fileResult_ready {sz : Size} {d : FileDest} {a : Word} {s : State}
    (h : d = .file → writable sz a s = true) (v : Word) (c : Access) (k : Nat) :
    ∃ c', fileResult sz d a v (s.at' c k) = .ok ((fileNext sz d a v s).at' c' k) := by
  cases d with
  | wreg => exact dstOperand_at (m := .direct) (n := 0#4) rfl c k
  | file => exact memWrite_at (h rfl) v c k

/-- ADD f with a register that can be read, and written where it is the destination. -/
theorem exec_addF_ready {sz : Size} {d : FileDest} {f : BitVec 13} {s : State}
    (hread : readable sz (fileAddr f) s = true)
    (hwrite : d = .file → writable sz (fileAddr f) s = true) :
    let a := narrow sz (getW 0#4 s)
    let m := readVal sz (fileAddr f) s
    ∃ c k, exec (.addF sz d f) s = .next (advance 1
      ((fileNext sz d (fileAddr f) (addResult sz a m) (setAddFlags sz a m s)).at' c k)) := by
  intro a m
  obtain ⟨c, k, hr⟩ := memRead_ready hread
  obtain ⟨c', hw⟩ := fileResult_ready (s := setAddFlags sz a m s) hwrite (addResult sz a m) c k
  have hctl : SameControl s (fileNext sz d (fileAddr f) (addResult sz a m) (setAddFlags sz a m s)) :=
    fileNext_sameControl sz d (fileAddr f) _ (setAddFlags sz a m s)
  refine ⟨c', k, ?_⟩
  change execAddF sz d f s = _
  rw [execAddF, hr]
  exact finish_advance hw hctl

/-- Settles O31: the flags by `setAddFlags_eq`, the sum by `addResult_eq`; the destination is written after
the flags and does not depend on them. -/
theorem add_result : Obligations.add_result := by
  constructor
  · intro sz wb dm wd sm ws s hsrc hdst a m r u
    have hr : addResult sz a m = r := addResult_eq sz a m
    have hu : setAddFlags sz a m (srcNext sz sm ws s) = u := by
      have hsr : (srcNext sz sm ws s).sr = s.sr := by rw [srcNext_eq]
      rw [setAddFlags_eq (narrow_lt ..) (srcVal_lt ..), hsr]
    obtain ⟨c, k, hexec⟩ := exec_addWbWsWd_ready wb hsrc hdst
    have hframe := dstNext_frame sz dm wd r u
    rw [hr, hu] at hexec
    rw [← hu, dstFrame_setAddFlags, hu] at hframe
    refine ⟨_, hexec, ends_advance 1 ?_ c k, hframe, fun hcore => ?_⟩
    · rw [dstNext_pc]; exact srcNext_pc ..
    · rw [← dstIsCore_setAddFlags sz dm wd a m, hu] at hcore
      obtain ⟨hregs, hsr, -, -⟩ := dstNext_other (v := r) hcore
      refine ⟨fun n hn => ?_, hsr⟩
      rw [List.mem_append, not_or] at hn
      exact (hregs n hn.2).trans (getW_srcNext hn.1)
  · intro sz d f s hread hwrite a m r u
    have hr : addResult sz a m = r := addResult_eq sz a m
    have hu : setAddFlags sz a m s = u := setAddFlags_eq (narrow_lt ..) (readVal_lt ..) s
    obtain ⟨c, k, hexec⟩ := exec_addF_ready hread hwrite
    rw [hr, hu] at hexec
    have hends := ends_advance 1 (fileNext_sameControl sz d (fileAddr f) r u).1 c k
    refine ⟨_, hexec, ?_, ?_⟩
    · rintro rfl
      obtain ⟨hregs, hsr, -, -⟩ :=
        dstNext_other (sz := sz) (m := .direct) (n := 0#4) (v := r) (s := u) (fun h => h.1 rfl)
      exact ⟨hends, (dstNext_frame sz .direct 0#4 r u).1 rfl, hregs, hsr⟩
    · rintro rfl
      exact ⟨hends, written_memory sz (fileAddr f) r u⟩

/-! ## BSET and BTSC (R215, R216) -/

/-- Setting bit `i` of a word keeps every other bit. -/
theorem getLsbD_setBit (v : Word) (i : BitVec 4) (k : Nat) :
    (v ||| (1#16 <<< i.toNat)).getLsbD k = (v.getLsbD k || decide (k = i.toNat)) := by
  rw [BitVec.getLsbD_or, ← BitVec.twoPow_eq, BitVec.getLsbD_twoPow, decide_eq_true i.isLt,
    Bool.true_and]
  exact congrArg _ (decide_eq_decide.mpr eq_comm)

theorem exec_bset_ready {f : BitVec 12} {s : State}
    (hread : readable .word (bitFileAddr f) s = true)
    (hwrite : writable .word (bitFileAddr f) s = true) (bit : BitVec 4) :
    let v := readVal .word (bitFileAddr f) s ||| (1#16 <<< bit.toNat)
    ∃ c k, exec (.bset bit f) s
      = .next (advance 1 ((written .word (bitFileAddr f) v s).at' c k)) := by
  intro v
  obtain ⟨c, k, hr⟩ := memRead_ready hread
  obtain ⟨c', hw⟩ := memWrite_at hwrite v c k
  refine ⟨c', k, ?_⟩
  change execBset bit f s = _
  rw [execBset, hr]
  exact finish_advance hw (written_sameControl ..)

theorem exec_btsc_ready {f : BitVec 12} {s : State}
    (h : readable .word (bitFileAddr f) s = true) (bit : BitVec 4) :
    ∃ c k, exec (.btsc bit f) s = .next (advance
      (if (readVal .word (bitFileAddr f) s).getLsbD bit.toNat then 1 else 2) (s.at' c k)) := by
  obtain ⟨c, k, hr⟩ := memRead_ready h
  refine ⟨c, k, ?_⟩
  change execBtsc bit f s = _
  rw [execBtsc, hr]
  exact finish_ok (trapNested_same rfl rfl)

/-- Settles O32: the word written has one bit more, and the words skipped are BTSC's advance. -/
theorem bit_result : Obligations.bit_result := by
  refine ⟨fun bit f s hread hwrite => ?_, fun bit f s hread => ?_⟩
  · obtain ⟨c, k, hexec⟩ := exec_bset_ready hread hwrite bit
    exact ⟨_, _, hexec, getLsbD_setBit _ bit, ends_advance 1 (written_pc ..) c k,
      written_memory .word (bitFileAddr f) _ s⟩
  · obtain ⟨c, k, hexec⟩ := exec_btsc_ready hread bit
    refine ⟨_, hexec, ?_⟩
    rw [← apply_ite (fun n => ahead n s.pc)]
    exact ends_advance _ rfl c k

/-! ## The shifts (R220 to R222) -/

/-- ASR divides the signed value, rounding down. -/
theorem sshiftRight_eq_ofInt (v : Word) (k : Nat) :
    v.sshiftRight k = BitVec.ofInt 16 (v.toInt / 2 ^ k) := by
  rw [← BitVec.ofInt_toInt (x := v.sshiftRight k), BitVec.toInt_sshiftRight,
    Int.shiftRight_eq_div_pow]
  norm_cast

/-- LSR divides the unsigned value. -/
theorem ushiftRight_eq_ofNat (v : Word) (k : Nat) :
    v >>> k = BitVec.ofNat 16 (v.toNat / 2 ^ k) := by
  rw [← Nat.shiftRight_eq_div_pow, ← BitVec.toNat_ushiftRight, BitVec.ofNat_toNat,
    BitVec.setWidth_eq]

/-- SL multiplies modulo 2^16. -/
theorem shiftLeft_eq_ofNat (v : Word) (k : Nat) :
    v <<< k = BitVec.ofNat 16 (v.toNat * 2 ^ k) := by
  refine BitVec.eq_of_toNat_eq ?_
  rw [BitVec.toNat_shiftLeft, BitVec.toNat_ofNat, Nat.shiftLeft_eq]

theorem fixedW_idem (n : WReg) (v : Word) : fixedW n (fixedW n v) = fixedW n v := by
  unfold fixedW
  split
  · rw [BitVec.and_assoc, BitVec.and_self]
  · rfl

/-- A write stores what the register can hold. -/
theorem setW_fixedW (n : WReg) (v : Word) (s : State) : setW n (fixedW n v) s = setW n v s := by
  simp only [setW, putW, fixedW_idem]

/-- `t` is the state after a shift's result `v` in Wd, with N and Z of what Wd then holds. -/
def ShiftEnds (wd : WReg) (v : Word) (s t : State) : Prop :=
  Ends (ahead 1 s.pc) { setW wd v s with
    sr := { s.sr with n := (getW wd t).getLsbD 15, z := decide (getW wd t = 0#16) } } t
  ∧ getW wd t = fixedW wd v ∧ SameWBut [wd] s t ∧ SameMemory s t

theorem shiftTo_ends (wd : WReg) (v : Word) (s : State) : ShiftEnds wd v s (shiftTo wd v s) := by
  have hw : getW wd (shiftTo wd v s) = fixedW wd v :=
    (getW_putW_same wd (fixedW wd v) s).trans (fixedW_idem wd v)
  refine ⟨?_, hw, sameWBut_setW wd (fixedW wd v) s, fun _ => rfl⟩
  rw [hw, shiftTo, shiftResult, setW_fixedW, ← beq_eq_decide]
  rfl

/-- A register shift by at most 15 is the shift by that amount. -/
theorem shiftReg_next {ws : WReg} {s : State} (h : (getW ws s).toNat ≤ 15) (wd : WReg)
    (f : Nat → Word) :
    finish s (do let n ← shiftAmount ws s; return shiftTo wd (f n) s)
      = .next (shiftTo wd (f (getW ws s).toNat) s) := by
  rw [shiftAmount, if_pos h]
  exact finish_ok (trapNested_same rfl rfl)

/-- A register shift by more than 15 is refused (D28). -/
theorem shiftReg_refused {ws : WReg} {s : State} (h : 15 < (getW ws s).toNat) (wd : WReg)
    (f : Nat → Word) :
    finish s (do let n ← shiftAmount ws s; return shiftTo wd (f n) s) = .refused .shiftAmount := by
  rw [shiftAmount, if_neg (Nat.not_le.mpr h)]
  rfl

/-- Settles O33: every shift ends in `shiftTo`, and its value is read on the integers. -/
theorem shift_result : Obligations.shift_result := by
  intro wb wd s asr lsr sl shifted
  have hasr (k : Nat) : shifted (asr k) (shiftTo wd ((getW wb s).sshiftRight k) s) :=
    sshiftRight_eq_ofInt (getW wb s) k ▸ shiftTo_ends wd ((getW wb s).sshiftRight k) s
  have hlsr (k : Nat) : shifted (lsr k) (shiftTo wd (getW wb s >>> k) s) :=
    ushiftRight_eq_ofNat (getW wb s) k ▸ shiftTo_ends wd (getW wb s >>> k) s
  have hsl (k : Nat) : shifted (sl k) (shiftTo wd (getW wb s <<< k) s) :=
    shiftLeft_eq_ofNat (getW wb s) k ▸ shiftTo_ends wd (getW wb s <<< k) s
  refine ⟨fun lit => ⟨⟨_, rfl, hasr _⟩, ⟨_, rfl, hlsr _⟩, ⟨_, rfl, hsl _⟩⟩,
    fun ws => ⟨fun h => ?_, fun h => ?_⟩⟩
  · exact ⟨⟨_, shiftReg_next h wd _, hasr _⟩, ⟨_, shiftReg_next h wd _, hlsr _⟩,
      ⟨_, shiftReg_next h wd _, hsl _⟩⟩
  · exact ⟨shiftReg_refused h wd _, shiftReg_refused h wd _, shiftReg_refused h wd _⟩

/-! ## The multiplies (R229 to R234) -/

/-- An operand is at most 2^15 in size as a signed number, and below 2^16 as an unsigned one. -/
theorem abs_readAs_le (b : Bool) (v : Word) :
    |readAs b v| ≤ if b then 2 ^ 15 else 2 ^ 16 - 1 := by
  rw [abs_le]
  cases b with
  | false =>
    have hlt := v.isLt
    simp only [readAs, Bool.false_eq_true, if_false]
    omega
  | true =>
    have hlt := v.toInt_lt
    have hle := v.le_toInt
    simp only [readAs, if_true]
    omega

/-- A product with a signed operand fits 32 bits as a signed number. -/
theorem toInt_product {sb sv : Bool} (h : sb = true ∨ sv = true) (a v : Word) :
    (BitVec.ofInt 32 (readAs sb a * readAs sv v)).toInt = readAs sb a * readAs sv v := by
  have hle : |readAs sb a * readAs sv v| ≤ 2 ^ 15 * (2 ^ 16 - 1) := by
    rw [abs_mul]
    calc |readAs sb a| * |readAs sv v|
        ≤ (if sb then 2 ^ 15 else 2 ^ 16 - 1) * (if sv then 2 ^ 15 else 2 ^ 16 - 1) :=
          mul_le_mul (abs_readAs_le sb a) (abs_readAs_le sv v) (abs_nonneg _) (by split <;> decide)
      _ ≤ 2 ^ 15 * (2 ^ 16 - 1) := by revert sb sv; decide
  rw [abs_le] at hle
  obtain ⟨hlow, hhigh⟩ := hle
  exact BitVec.toInt_ofInt_eq_self (by decide) (by omega) (by omega)

/-- A product of unsigned operands fits 32 bits. -/
theorem toNat_product (a v : Word) :
    (BitVec.ofNat 32 (a.toNat * v.toNat)).toNat = a.toNat * v.toNat := by
  have hlt : a.toNat * v.toNat < 2 ^ 16 * 2 ^ 16 := Nat.mul_lt_mul'' a.isLt v.isLt
  exact (BitVec.toNat_ofNat ..).trans (Nat.mod_eq_of_lt hlt)

theorem unsigned_product (a v : Word) :
    BitVec.ofInt 32 (readAs false a * readAs false v) = BitVec.ofNat 32 (a.toNat * v.toNat) :=
  BitVec.ofInt_natCast 32 (a.toNat * v.toNat)

/-- A product of bytes fits 16 bits. -/
theorem byte_product_lt {a v : Word} (ha : a.toNat < 2 ^ Size.bits .byte)
    (hv : v.toNat < 2 ^ Size.bits .byte) : a.toNat * v.toNat < 2 ^ 16 := by
  have hlt : a.toNat * v.toNat < 2 ^ 8 * 2 ^ 8 := Nat.mul_lt_mul'' ha hv
  exact hlt

/-- A pair that does not reach W15 holds the two words written to it. -/
theorem getW_setPair {n : WReg} (heven : n.isEven = true) (hn : n ≠ 14#4) (v : BitVec 32)
    (s : State) : getW (n + 1#4) (setPair n v s) = v.extractLsb' 16 16
      ∧ getW n (setPair n v s) = v.extractLsb' 0 16 := by
  have h2 : n.toNat % 2 = 0 := by simpa [WReg.isEven] using heven
  have hne : n ≠ n + 1#4 := by bv_omega
  have hlo : n ≠ 15#4 := by bv_omega
  have hhi : n + 1#4 ≠ 15#4 := by bv_omega
  constructor
  · rw [setPair, getW_setW, if_pos rfl, fixedW, if_neg hhi]
  · rw [setPair, getW_setW, if_neg hne, getW_setW, if_pos rfl, fixedW, if_neg hlo]

theorem halves_append (v : BitVec 32) : v.extractLsb' 16 16 ++ v.extractLsb' 0 16 = v :=
  (BitVec.extractLsb'_append_extractLsb'_eq_extractLsb' rfl).trans BitVec.extractLsb'_eq_self

theorem halves_toNat (v : BitVec 32) :
    (v.extractLsb' 16 16).toNat * 2 ^ 16 + (v.extractLsb' 0 16).toNat = v.toNat := by
  have hlt := v.isLt
  simp only [BitVec.extractLsb'_toNat, Nat.shiftRight_eq_div_pow]
  omega

theorem sameWBut_setPair (n : WReg) (v : BitVec 32) (s : State) :
    SameWBut [n, n + 1#4] s (setPair n v s) := by
  intro j hj
  simp only [List.mem_cons, List.not_mem_nil, or_false, not_or] at hj
  rw [setPair, getW_setW, if_neg hj.2, getW_setW, if_neg hj.1]

/-- `t` is the state after a multiply whose product `p` goes to Wd + 1:Wd, its source read in `s`. -/
def MulEnds (wd : WReg) (m : Mode) (ws : WReg) (p : BitVec 32) (s t : State) : Prop :=
  Ends (ahead 1 s.pc) (setPair wd p (srcNext .word m ws s)) t
  ∧ SameMemory s t ∧ SameWBut ([wd, wd + 1#4] ++ pointerRegs m ws) s t ∧ t.sr = s.sr
  ∧ (wd ≠ 14#4 → getW (wd + 1#4) t ++ getW wd t = p)

/-- A multiply with a ready source and an even pair gives the product of the operands as read. -/
theorem multiply_ready {wd : WReg} {m : Mode} {ws : WReg} {s : State}
    (hsrc : srcReady .word m ws s = true) (heven : wd.isEven = true) (sb sv : Bool) (wb : WReg) :
    ∃ t, finish s (multiply sb sv wb wd m ws s) = .next t
      ∧ MulEnds wd m ws
        (BitVec.ofInt 32 (readAs sb (getW wb s) * readAs sv (srcVal .word m ws s))) s t := by
  generalize hp : BitVec.ofInt 32 (readAs sb (getW wb s) * readAs sv (srcVal .word m ws s)) = p
  obtain ⟨c, k, hread⟩ := srcOperand_ready hsrc
  obtain ⟨hpc, hstack, harith⟩ := srcNext_sameControl .word m ws s
  have hrun : multiply sb sv wb wd m ws s
      = .ok (advance 1 (setPair wd p ((srcNext .word m ws s).at' c k))) := by
    simp only [multiply, requireEven_even heven, hread, ok_bind, pure_ok, hp]
  rw [hrun]
  refine ⟨_, finish_ok (trapNested_same hstack harith), ends_setW_setW hpc .., fun _ => ?_,
    fun j hj => ?_, ?_, fun hwd => ?_⟩
  · rw [srcNext_eq]; rfl
  · rw [List.mem_append, not_or] at hj
    exact (sameWBut_setPair wd p (srcNext .word m ws s) j hj.1).trans (getW_srcNext hj.2)
  · rw [srcNext_eq]; rfl
  · obtain ⟨hhi, hlo⟩ := getW_setPair heven hwd p (srcNext .word m ws s)
    exact (congrArg₂ (· ++ ·) hhi hlo).trans (halves_append p)

theorem exec_mulF_ready {sz : Size} {f : BitVec 13} {s : State}
    (h : readable sz (fileAddr f) s = true) :
    ∃ c k, exec (.mulF sz f) s = .next (advance 1 (setFileProduct sz (BitVec.ofNat 32
      ((narrow sz (getW 0#4 s)).toNat * (readVal sz (fileAddr f) s).toNat)) (s.at' c k))) := by
  obtain ⟨c, k, hread⟩ := memRead_ready h
  refine ⟨c, k, ?_⟩
  change execMulF sz f s = _
  rw [execMulF, hread]
  refine finish_ok ?_
  cases sz <;> exact trapNested_same rfl rfl

/-- A word product of MUL f stands in W3:W2. -/
theorem setFileProduct_word (q : BitVec 32) (s : State) (c : Access) (k : Nat) :
    let t := advance 1 (setFileProduct .word q (s.at' c k))
    Ends (ahead 1 s.pc) (setW 3#4 (getW 3#4 t) (setW 2#4 (getW 2#4 t) s)) t
      ∧ (getW 3#4 t).toNat * 2 ^ 16 + (getW 2#4 t).toNat = q.toNat ∧ SameWBut [2#4, 3#4] s t := by
  intro t
  obtain ⟨hhi, hlo⟩ : getW 3#4 t = q.extractLsb' 16 16 ∧ getW 2#4 t = q.extractLsb' 0 16 :=
    getW_setPair (n := 2#4) (by decide) (by decide) q (s.at' c k)
  rw [hhi, hlo]
  exact ⟨ends_setW_setW rfl .., halves_toNat q, sameWBut_setPair 2#4 q s⟩

/-- A byte product of MUL f stands in W2. -/
theorem setFileProduct_byte {q : BitVec 32} (hq : q.toNat < 2 ^ 16) (s : State) (c : Access)
    (k : Nat) :
    let t := advance 1 (setFileProduct .byte q (s.at' c k))
    Ends (ahead 1 s.pc) (setW 2#4 (getW 2#4 t) s) t ∧ (getW 2#4 t).toNat = q.toNat
      ∧ SameWBut [2#4] s t := by
  intro t
  have hlo : getW 2#4 t = q.extractLsb' 0 16 := getW_putW_same 2#4 _ _
  rw [hlo]
  refine ⟨ends_setW rfl .., ?_, sameWBut_setW 2#4 _ s⟩
  rw [BitVec.extractLsb'_toNat, Nat.shiftRight_zero, Nat.mod_eq_of_lt hq]

/-- Settles O34: each multiply is `multiply` with its suffix's signs, whose product fits the pair; the byte
product of MUL f fits W2. -/
theorem mul_result : Obligations.mul_result := by
  constructor
  · intro wb wd m ws s hsrc heven a v done
    have hmul (sb sv : Bool) := multiply_ready hsrc heven sb sv wb
    refine ⟨?uu, ?ss, ?su, ?us⟩
    case uu =>
      obtain ⟨t, hexec, hends⟩ := hmul false false
      rw [unsigned_product] at hends
      exact ⟨t, _, hexec, hends, toNat_product a v⟩
    case ss =>
      obtain ⟨t, hexec, hends⟩ := hmul true true
      exact ⟨t, _, hexec, hends, toInt_product (.inl rfl) a v⟩
    case su =>
      obtain ⟨t, hexec, hends⟩ := hmul true false
      exact ⟨t, _, hexec, hends, toInt_product (.inl rfl) a v⟩
    case us =>
      obtain ⟨t, hexec, hends⟩ := hmul false true
      exact ⟨t, _, hexec, hends, toInt_product (.inr rfl) a v⟩
  · intro sz f s hread p
    obtain ⟨c, k, hexec⟩ := exec_mulF_ready hread
    have hp := toNat_product (narrow sz (getW 0#4 s)) (readVal sz (fileAddr f) s)
    refine ⟨_, hexec, fun _ => by cases sz <;> rfl, by cases sz <;> rfl, ?_, ?_⟩
    · rintro rfl
      obtain ⟨hends, hval, hregs⟩ := setFileProduct_word (BitVec.ofNat 32 p) s c k
      exact ⟨hends, hval.trans hp, hregs⟩
    · rintro rfl
      have hlt : (BitVec.ofNat 32 p).toNat < 2 ^ 16 :=
        hp.trans_lt (byte_product_lt (narrow_lt ..) (readVal_lt ..))
      obtain ⟨hends, hval, hregs⟩ := setFileProduct_byte hlt s c k
      exact ⟨hends, hval.trans hp, hregs⟩

end Sys2Proof.Machine

/-! The DSP engine: the product, the accumulator update, the round logic and the data space write
saturation, ED and EDAC, and the accumulator's add, load, store and shift (R246 to R285). -/

namespace Sys2Proof.Machine

/-! ## The product (R246, R247) -/

/-- Settles O35: the value by `dspMul_mem_products`, and at most a draw by `dspMul_at`. -/
theorem dsp_product : Obligations.dsp_product := by
  intro x y s
  obtain ⟨p, k, h⟩ := dspMul_at x y s
  refine ⟨dspMul_mem_products x y s, ?_⟩
  rw [h]
  exact like_at s s.cur k

/-! ## The result of an update under each saturation mode (R251 to R254) -/

theorem over31_iff (r : Int) : over31 r = true ↔ Over31 r := by simp [over31, Over31]

theorem over39_iff (r : Int) : over39 r = true ↔ Over39 r := by simp [over39, Over39]

/-- A result that fits 32 bits fits 40. -/
theorem Over39.over31 {r : Int} (h : Over39 r) : Over31 r := by
  unfold Over39 at h
  unfold Over31
  omega

/-- A result that fits 40 bits is stored as it is. -/
theorem toInt_ofInt_acc {r : Int} (h : ¬ Over39 r) : (BitVec.ofInt 40 r).toInt = r := by
  unfold Over39 at h
  exact BitVec.toInt_ofInt_eq_self (by decide) (by omega) (by omega)

/-- 9.31 saturation clamps to 40 bits (R252). -/
theorem accResult_super (r : Int) :
    let a := accResult true true r
    (a.overflow = true ↔ Over31 r) ∧ (a.saturated = true ↔ Over39 r)
      ∧ (¬ Over39 r → a.value.toInt = r)
      ∧ (Over39 r → a.value = if 0 < r then 0x7FFFFFFFFF#40 else 0x8000000000#40) := by
  by_cases h : Over39 r
  · have hr := (over39_iff r).mpr h
    simp [accResult, hr, h, over31_iff]
  · have hr : ¬ over39 r = true := fun hr => h ((over39_iff r).mp hr)
    simp [accResult, hr, h, over31_iff, toInt_ofInt_acc h]

/-- 1.31 saturation clamps to 32 bits, so that nothing overflows into the guard bits (R253). -/
theorem accResult_normal (r : Int) :
    let a := accResult true false r
    a.overflow = false ∧ (a.saturated = true ↔ Over31 r) ∧ (¬ Over31 r → a.value.toInt = r)
      ∧ (Over31 r → a.value = if 0 < r then 0x007FFFFFFF#40 else 0xFF80000000#40) := by
  by_cases h : Over31 r
  · have hr := (over31_iff r).mpr h
    simp [accResult, hr, h]
  · have hr : ¬ over31 r = true := fun hr => h ((over31_iff r).mp hr)
    simp [accResult, hr, h, toInt_ofInt_acc (mt Over39.over31 h)]

/-- Without saturation the value wraps (R254). -/
theorem accResult_wrap (super : Bool) (r : Int) :
    let a := accResult false super r
    (a.overflow = true ↔ Over31 r) ∧ (a.saturated = true ↔ Over39 r)
      ∧ a.value = BitVec.ofInt 40 r :=
  ⟨over31_iff r, over39_iff r, rfl⟩

/-! ## What an update stores (R251, R256, R257) -/

section Update
variable (x : AccId) (r : Int) (m s : State)

theorem getAcc_accDone :
    getAcc x (accDone x r m s) = (accResult (satOn x m) m.corcon.accsat r).value := by
  cases x <;> rfl

theorem accO_accDone :
    accO x (accDone x r m s) = (accResult (satOn x m) m.corcon.accsat r).overflow := by
  cases x <;> rfl

/-- SX is only set (R257). -/
theorem accS_accDone : accS x (accDone x r m s) = true ↔ accS x s = true
    ∨ (accResult (satOn x m) m.corcon.accsat r).saturated = true := by
  rw [← Bool.or_eq_true]
  cases x <;> exact Iff.rfl

theorem accDone_eq :
    let t := accDone x r m s
    t = { s with acca := t.acca, accb := t.accb, arithPending := t.arithPending
                 sr := { s.sr with oa := t.sr.oa, ob := t.sr.ob, sa := t.sr.sa, sb := t.sr.sb } } := by
  cases x <;> rfl

variable {x} in
theorem accDone_other {y : AccId} (h : y ≠ x) :
    getAcc y (accDone x r m s) = getAcc y s ∧ accO y (accDone x r m s) = accO y s
      ∧ accS y (accDone x r m s) = accS y s := by
  match x, y with
  | .accA, .accB | .accB, .accA => exact ⟨rfl, rfl, rfl⟩
  | .accA, .accA | .accB, .accB => exact absurd rfl h

/-- ArithmeticError by OVATE or OVBTE with OX, or by COVTE on an unsaturated overflow of 40 bits
(R440). -/
theorem accTraps_iff : accTraps x r m = true
    ↔ ((accResult (satOn x m) m.corcon.accsat r).overflow = true ∧ overflowTrap x m = true)
      ∨ (satOn x m = false ∧ Over39 r ∧ m.intcon.covte = true) := by
  simp only [accTraps, Bool.or_eq_true, Bool.and_eq_true, Bool.not_eq_true', over39_iff]
  tauto

end Update

/-- Settles O38: the fields an update writes, with its result read in each saturation mode. -/
theorem accumulator_update : Obligations.accumulator_update := by
  intro x r m s t
  have ht : t = accDone x r m s := accUpdate_eq x r m s
  clear_value t
  subst ht
  have hsat := accS_accDone x r m s
  refine ⟨accDone_eq x r m s, fun y hy => accDone_other r m s hy, fun hon hsuper => ?_,
    fun hon hsuper => ?_, fun hoff => ?_, ?_⟩
  · obtain ⟨hov, hclamp, hin, hout⟩ := accResult_super r
    rw [getAcc_accDone, accO_accDone, hsat, hon, hsuper, hclamp]
    exact ⟨hov, Iff.rfl, hin, hout⟩
  · obtain ⟨hov, hclamp, hin, hout⟩ := accResult_normal r
    rw [getAcc_accDone, accO_accDone, hsat, hon, hsuper, hclamp]
    exact ⟨hov, Iff.rfl, hin, hout⟩
  · obtain ⟨hov, hlost, hval⟩ := accResult_wrap m.corcon.accsat r
    rw [getAcc_accDone, accO_accDone, hsat, hoff, hlost]
    exact ⟨hov, Iff.rfl, hval⟩
  · rw [accO_accDone, ← accTraps_iff, ← Bool.or_eq_true]
    rfl

/-! ## Rounding and saturation (R260, R261)

An accumulator is its bits 39:16, which rounding and saturation work on, above its low word. -/

theorem acc_parts (t : Acc40) : t.extractLsb' 16 24 ++ t.extractLsb' 0 16 = t :=
  (BitVec.extractLsb'_append_extractLsb'_eq_extractLsb' rfl).trans BitVec.extractLsb'_eq_self

section Parts
variable (hi : BitVec 24) (lo : Word)

theorem toNat_parts : (hi ++ lo : Acc40).toNat = hi.toNat * 0x10000 + lo.toNat := by
  rw [BitVec.toNat_append, ← Nat.shiftLeft_add_eq_or_of_lt lo.isLt, Nat.shiftLeft_eq]

theorem high_parts : (hi ++ lo : Acc40).extractLsb' 16 24 = hi := by
  refine BitVec.eq_of_toNat_eq ?_
  have hhi := hi.isLt
  have hlo := lo.isLt
  rw [BitVec.extractLsb'_toNat, Nat.shiftRight_eq_div_pow, toNat_parts]
  omega

theorem low_parts : (hi ++ lo : Acc40).extractLsb' 0 16 = lo := by
  refine BitVec.eq_of_toNat_eq ?_
  have hlo := lo.isLt
  rw [BitVec.extractLsb'_toNat, Nat.shiftRight_zero, toNat_parts]
  omega

theorem middle_parts : (hi ++ lo : Acc40).extractLsb' 16 16 = hi.setWidth 16 := by
  refine BitVec.eq_of_toNat_eq ?_
  have hlo := lo.isLt
  rw [BitVec.extractLsb'_toNat, Nat.shiftRight_eq_div_pow, toNat_parts, BitVec.toNat_setWidth]
  omega

theorem bit16_parts : (hi ++ lo : Acc40).getLsbD 16 = hi.getLsbD 0 := by
  rw [BitVec.getLsbD_append, if_neg (by omega)]

theorem toInt_parts : (hi ++ lo : Acc40).toInt = 0x10000 * hi.toInt + lo.toNat := by
  rw [BitVec.toInt_append]
  simp

/-- The increment of the round logic carries into the guard bits (D16). -/
theorem increment_parts : (hi ++ lo : Acc40) + 0x10000#40 = (hi + 1#24) ++ lo := by
  refine BitVec.eq_of_toNat_eq ?_
  have hhi := hi.isLt
  have hlo := lo.isLt
  rw [BitVec.toNat_add, toNat_parts, toNat_parts, BitVec.toNat_add]
  simp only [BitVec.toNat_ofNat]
  omega

theorem roundAcc_parts (rnd : Bool) :
    roundAcc rnd (hi ++ lo) = (hi + if roundsUp rnd (hi ++ lo) then 1#24 else 0#24) ++ lo := by
  unfold roundAcc
  split
  · exact increment_parts hi lo
  · rw [BitVec.add_zero]

theorem roundsUp_conventional : roundsUp true (hi ++ lo) = decide (0x8000 ≤ lo.toNat) := by
  simp only [roundsUp, low_parts, if_true]

theorem roundsUp_convergent : roundsUp false (hi ++ lo)
    = if lo.toNat = 0x8000 then hi.getLsbD 0 else decide (0x8000 < lo.toNat) := by
  simp only [roundsUp, low_parts, bit16_parts, Bool.false_eq_true, if_false]

/-- Conventional rounding adds half and rounds down. -/
theorem round_conventional :
    (roundAcc true (hi ++ lo)).extractLsb' 16 24
      = BitVec.ofInt 24 (((hi ++ lo : Acc40).toInt + 0x8000) / 0x10000) := by
  have hlo := lo.isLt
  have hdiv : ((hi ++ lo : Acc40).toInt + 0x8000) / 0x10000
      = hi.toInt + if 0x8000 ≤ lo.toNat then 1 else 0 := by
    rw [toInt_parts]
    split <;> omega
  rw [roundAcc_parts, high_parts, roundsUp_conventional, hdiv, BitVec.ofInt_add, BitVec.ofInt_toInt]
  by_cases h : 0x8000 ≤ lo.toNat <;> simp [h]

theorem round_convergent_off_tie (h : lo ≠ 0x8000#16) :
    roundAcc false (hi ++ lo) = roundAcc true (hi ++ lo) := by
  have hne : lo.toNat ≠ 0x8000 := fun e => h (BitVec.eq_of_toNat_eq e)
  have hup : roundsUp false (hi ++ lo) = roundsUp true (hi ++ lo) := by
    rw [roundsUp_convergent, roundsUp_conventional, if_neg hne]
    exact decide_eq_decide.mpr (by omega)
  rw [roundAcc, roundAcc, hup]

/-- Adding its own bit 0 to a number makes it even. -/
theorem even_add_bit0 : (hi + if hi.getLsbD 0 then 1#24 else 0#24).getLsbD 0 = false := by
  rw [BitVec.getLsbD_add (by decide), BitVec.carry_zero]
  cases hi.getLsbD 0 <;> rfl

theorem round_convergent_tie :
    (roundAcc false (hi ++ 0x8000#16)).getLsbD 16 = false
      ∧ (roundAcc false (hi ++ 0x8000#16)).extractLsb' 16 24
        = hi + if hi.getLsbD 0 then 1#24 else 0#24 := by
  have hup : roundsUp false (hi ++ 0x8000#16) = hi.getLsbD 0 := roundsUp_convergent hi 0x8000#16
  rw [roundAcc_parts, bit16_parts, high_parts, hup]
  exact ⟨even_add_bit0 hi, rfl⟩

/-- A number that fits 16 bits keeps its value in them. -/
theorem toInt_setWidth_fits (hlow : -0x8000 ≤ hi.toInt) (hhigh : hi.toInt ≤ 0x7FFF) :
    (hi.setWidth 16).toInt = hi.toInt := by
  have hlt := hi.isLt
  rw [BitVec.toInt_eq_toNat_cond] at hlow hhigh ⊢
  rw [BitVec.toInt_eq_toNat_cond, BitVec.toNat_setWidth]
  omega

theorem satWrite_clamps :
    (satWrite true (hi ++ lo)).toInt
      = max (-0x8000) (min 0x7FFF ((hi ++ lo : Acc40).toInt / 0x10000)) := by
  have hlo := lo.isLt
  have hdiv : (hi ++ lo : Acc40).toInt / 0x10000 = hi.toInt := by
    rw [toInt_parts]
    omega
  simp only [satWrite, high_parts, middle_parts, Bool.true_and, decide_eq_true_eq, hdiv]
  split
  · next habove =>
    rw [show (0x7FFF#16).toInt = 0x7FFF by decide]
    omega
  · split
    · next hbelow =>
      rw [show (0x8000#16).toInt = -0x8000 by decide]
      omega
    · rw [toInt_setWidth_fits hi (by omega) (by omega)]
      omega

end Parts

theorem satWrite_plain (t : Acc40) : satWrite false t = t.extractLsb' 16 16 := by
  simp [satWrite]

/-- Settles O39: every clause speaks of bits 39:16 above the low word. -/
theorem round_saturate : Obligations.round_saturate := by
  intro t
  obtain ⟨hi, lo, rfl⟩ : ∃ hi lo, t = hi ++ lo := ⟨_, _, (acc_parts t).symm⟩
  rw [low_parts, high_parts, bit16_parts]
  refine ⟨round_conventional hi lo, round_convergent_off_tie hi lo, ?_, satWrite_clamps hi lo,
    satWrite_plain _⟩
  rintro rfl
  exact round_convergent_tie hi

/-! ## Instructions that end in an update (R251, R277 to R282, R285) -/

/-- `u` is `s` but for the working registers with their marks, the record and the count of free
values. -/
def OnlyRegisters (s u : State) : Prop :=
  u = { s with w := u.w, winit := u.winit, cur := u.cur, draws := u.draws }

theorem OnlyRegisters.refl (s : State) : OnlyRegisters s s := rfl

theorem onlyRegisters_at (s : State) (c : Access) (k : Nat) : OnlyRegisters s (s.at' c k) := rfl

theorem OnlyRegisters.trans {s t u : State} (h : OnlyRegisters s t) (h' : OnlyRegisters t u) :
    OnlyRegisters s u := by
  rw [OnlyRegisters] at h h' ⊢
  rw [h] at h'
  exact h'

theorem OnlyRegisters.sameControl {s u : State} (h : OnlyRegisters s u) : SameControl s u := by
  rw [h]; exact ⟨rfl, rfl, rfl⟩

theorem OnlyRegisters.getAcc {s u : State} (h : OnlyRegisters s u) (x : AccId) :
    getAcc x u = getAcc x s := by
  rw [h]; cases x <;> rfl

theorem onlyRegisters_moved (n : WReg) (d : Int) (s : State) : OnlyRegisters s (moved n d s) := by
  rw [moved_eq]; rfl

theorem onlyRegisters_srcNext (sz : Size) (m : Mode) (n : WReg) (s : State) :
    OnlyRegisters s (srcNext sz m n s) := by
  rw [srcNext_eq]; rfl

/-- `t` is the state after an update of `x` by `r` that an instruction which began in `s` makes in
`u`; no working register but those of `l` changes. -/
def AccEnds (x : AccId) (r : Int) (l : List WReg) (s u t : State) : Prop :=
  Ends (ahead 1 s.pc) (accDone x r s u) t ∧ SameMemory s t ∧ SameWBut l s t ∧ OnlyAccStatus s t

/-- An instruction that has changed registers alone and ends in an update that may be made. -/
theorem accUpdate_finish {x : AccId} {r : Int} {l : List WReg} {s u : State}
    (h : accReady x r s = true) (hu : OnlyRegisters s u) (hw : SameWBut l s u)
    (c : Access) (k : Nat) :
    ∃ t, finish s (.ok (advance 1 (accUpdate x r s (u.at' c k)))) = .next t
      ∧ AccEnds x r l s u t := by
  obtain ⟨hpc, hstack, harith⟩ := hu.sameControl
  obtain ⟨hregs, hram, hpc', hstatus⟩ := accDone_fields x r s u
  have hmem : (accDone x r s u).ram = s.ram := by rw [hram, hu]
  have hsr : u.sr = s.sr := by rw [hu]
  rw [accUpdate_eq, accDone_at]
  refine ⟨_, finish_ok (accDone_nested h hstack harith), ends_advance 1 (hpc'.trans hpc) c k,
    fun b => congrArg (Memory.read · b) hmem, fun n hn => ?_, ?_⟩
  · have hget : getW n (accDone x r s u) = getW n u := by rw [getW, hregs, getW]
    exact hget.trans (hw n hn)
  · rw [OnlyAccStatus, ← hsr]
    exact hstatus

/-! ## ED and EDAC (R277, R278) -/

/-- The state after the data moves of ED and EDAC: the two pointer modifications and the difference. -/
def distanceNext (xd : DspReg) (px py : PreAccess) (s : State) : State :=
  let sx := prefetchNext .x px s
  setW (dspW xd) (readVal .word (prefetchAddr .x px s) s
    - readVal .word (prefetchAddr .y py sx) sx) (prefetchNext .y py sx)

theorem onlyRegisters_distanceNext (xd : DspReg) (px py : PreAccess) (s : State) :
    OnlyRegisters s (distanceNext xd px py s) :=
  (onlyRegisters_moved ..).trans <| (onlyRegisters_moved ..).trans rfl

theorem dspW_mem_prefetchRegs (side : Side) (xd : DspReg) (a : PreAccess) :
    dspW xd ∈ prefetchRegs side xd (some a) := by
  simp only [prefetchRegs]
  split <;> simp

theorem sameWBut_distanceNext (xd : DspReg) (px py : PreAccess) (s : State) :
    SameWBut (prefetchRegs .x xd (some px) ++ prefetchRegs .y xd (some py)) s
      (distanceNext xd px py s) := by
  intro n hn
  rw [List.mem_append, not_or] at hn
  obtain ⟨hx, hy⟩ := hn
  have hne : n ≠ dspW xd := fun e => hx (e ▸ dspW_mem_prefetchRegs .x xd px)
  calc getW n (distanceNext xd px py s)
      = getW n (prefetchNext .y py (prefetchNext .x px s)) := by
        rw [distanceNext, getW_setW, if_neg hne]
    _ = getW n (prefetchNext .x px s) := getW_prefetchOptNext hy
    _ = getW n s := getW_prefetchOptNext hx

/-- With both prefetches ready, ED and EDAC come to their update. -/
theorem distance_ready {px py : PreAccess} {s : State} (hx : prefetchReady .x px s = true)
    (hy : prefetchReady .y py (prefetchNext .x px s) = true) (f : Int → Int → Int) (m : DspReg)
    (x : AccId) (xd : DspReg) :
    ∃ c k, distance f m x xd px py s = .ok (advance 1 (accUpdate x
      (f (getAcc x s).toInt (dspMul (getW (dspW m) s) (getW (dspW m) s) s).1) s
      ((distanceNext xd px py s).at' c k))) := by
  obtain ⟨p, k, hmul⟩ := dspMul_at (getW (dspW m) s) (getW (dspW m) s) s
  obtain ⟨c1, hreadx⟩ := prefetchOne_ready hx s.cur k
  obtain ⟨c2, hready⟩ := prefetchOne_ready hy c1 k
  obtain ⟨c3, hset⟩ : ∃ c3, setW (dspW xd) (readVal .word (prefetchAddr .x px s) s
      - readVal .word (prefetchAddr .y py (prefetchNext .x px s)) (prefetchNext .x px s))
      ((prefetchNext .y py (prefetchNext .x px s)).at' c2 k)
      = (distanceNext xd px py s).at' c3 k := ⟨_, rfl⟩
  have hacc : getAcc x ((distanceNext xd px py s).at' c3 k) = getAcc x s :=
    ((onlyRegisters_distanceNext xd px py s).trans (onlyRegisters_at ..)).getAcc x
  refine ⟨c3, k, ?_⟩
  simp only [distance, hmul, hreadx, hready, hset, hacc, ok_bind, pure_ok]

/-- Settles O37: the data moves change registers alone, and the update is by the product of the
register's old value. -/
theorem distance_result : Obligations.distance_result := by
  intro m a xd x y s sx u done
  have hdone {f : Int → Int → Int} {i : Instr} (hi : exec i s = finish s (distance f m a xd x y s)) :
      done (f (getAcc a s).toInt) i := by
    intro hx hy hready
    have hp := dspMul_mem_products (getW (dspW m) s) (getW (dspW m) s) s
    obtain ⟨c, k, hrun⟩ := distance_ready hx hy f m a xd
    obtain ⟨t, hexec, hends, hmem, hregs, hstatus⟩ := accUpdate_finish (hready _ hp)
      (onlyRegisters_distanceNext xd x y s) (sameWBut_distanceNext xd x y s) c k
    exact ⟨t, _, hp, (hi.trans (congrArg (finish s) hrun)).trans hexec, hends, hmem, hstatus, hregs⟩
  clear_value done
  exact ⟨hdone (f := fun _ p => p) rfl, hdone (f := fun acc p => acc + p) rfl⟩

/-! ## ADD Acc, ADD Ws,Acc and LAC (R280 to R282) -/

/-- The shifter on a word placed in bits 31:16. -/
theorem shift40_wordToAcc (v : Word) (k : Int) : shift40 (wordToAcc v) k = scaledWord v k := by
  simp only [shift40, scaledWord, wordToAcc_toInt]

/-- An instruction that reads a source word and ends in an update by what `g` makes of it. -/
theorem accLoad_ready {m : Mode} {ws : WReg} {a : AccId} {r : Int} {s : State}
    (hsrc : srcReady .word m ws s = true) (hacc : accReady a r s = true) (g : Word → State → Int)
    (hg : ∀ c k, g (srcVal .word m ws s) ((srcNext .word m ws s).at' c k) = r) :
    ∃ t, finish s (do
        let (v, t) ← srcOperand .word m ws s
        return advance 1 (accUpdate a (g v t) s t)) = .next t
      ∧ AccEnds a r (pointerRegs m ws) s (srcNext .word m ws s) t := by
  obtain ⟨c, k, hread⟩ := srcOperand_ready hsrc
  have hrun := hg c k
  simp only [hread, ok_bind, pure_ok, hrun]
  exact accUpdate_finish hacc (onlyRegisters_srcNext ..) (fun n hn => getW_srcNext hn) c k

/-- Settles O40: ADD Acc reads no operand; the other two differ in what they make of theirs. -/
theorem accumulator_load : Obligations.accumulator_load := by
  constructor
  · intro a s r hacc
    exact accUpdate_finish hacc (.refl s) (fun _ _ => rfl) s.cur s.draws
  · intro a wb sh m ws s hsrc x done
    refine ⟨fun hacc => ?_, fun hacc => ?_⟩
    · refine accLoad_ready hsrc hacc
        (fun v t => (getAcc a t).toInt + shift40 (wordToAcc v) sh.toInt) fun c k => ?_
      rw [shift40_wordToAcc,
        ((onlyRegisters_srcNext .word m ws s).trans (onlyRegisters_at ..)).getAcc a]
    · exact accLoad_ready hsrc hacc (fun v _ => shift40 (wordToAcc v) sh.toInt)
        fun _ _ => shift40_wordToAcc ..

/-! ## SAC and SAC.R (R283, R284) -/

/-- An instruction that ends in writing `v` to a ready destination. -/
theorem dstOperand_finish {sz : Size} {m : Mode} {n : WReg} {s : State}
    (h : dstReady sz m n s = true) (v : Word) :
    ∃ t, finish s (do let t ← dstOperand sz m n v s; return advance 1 t) = .next t
      ∧ Ends (ahead 1 s.pc) (dstNext sz m n v s) t ∧ DstFrame sz m n s t
      ∧ (¬ dstIsCore sz m n s → SameWBut (dstRegs m n) s t ∧ t.sr = s.sr
        ∧ t.acca = s.acca ∧ t.accb = s.accb) := by
  obtain ⟨c, hwrite⟩ := dstOperand_ready (v := v) h
  exact ⟨_, finish_advance hwrite (dstNext_sameControl ..), ends_advance 1 (dstNext_pc ..) c s.draws,
    dstNext_frame .., dstNext_other⟩

/-- Settles O41: both end in one write, and the shifter's output is the scaled accumulator. -/
theorem accumulator_store : Obligations.accumulator_store := by
  intro a wb sh m wd s hdst v done
  exact ⟨dstOperand_finish hdst _, dstOperand_finish hdst _⟩

/-! ## SFTAC (R285) -/

theorem shiftAcc_ready {a : AccId} {k : Int} {s : State} (hlow : -16 ≤ k) (hhigh : k ≤ 16)
    (h : accReady a (scaledAcc (getAcc a s) k) s = true) :
    ∃ t, finish s (.ok (shiftAcc a k s)) = .next t
      ∧ AccEnds a (scaledAcc (getAcc a s) k) [] s s t := by
  rw [shiftAcc, if_neg (by omega)]
  exact accUpdate_finish h (.refl s) (fun _ _ => rfl) s.cur s.draws

/-- A shift by more than 16 is not made (R440). -/
theorem shiftAcc_beyond {k : Int} {s : State} (hk : k < -16 ∨ 16 < k) (hl : cpuLevel s < arithLevel s)
    (a : AccId) : ∃ t, finish s (.ok (shiftAcc a k s)) = .next t
      ∧ Ends (ahead 1 s.pc) { s with arithPending := true } t := by
  rw [shiftAcc, if_pos hk]
  exact ⟨_, finish_ok (trapNested_below (.inl rfl) (.inr hl)), rfl⟩

/-- Settles O42: a literal always, and a register amount from -32 to 31, is `shiftAcc` by that amount. -/
theorem accumulator_shift : Obligations.accumulator_shift := by
  intro a s done
  have hdone {k : Int} {i : Instr} (hi : exec i s = finish s (.ok (shiftAcc a k s))) : done k i := by
    refine ⟨fun hlow hhigh hacc => ?_, fun hk hl => ?_⟩
    · rw [hi]; exact shiftAcc_ready hlow hhigh hacc
    · rw [hi]; exact shiftAcc_beyond hk hl a
  clear_value done
  refine ⟨fun lit => hdone rfl, fun wb => ⟨fun hlow hhigh => hdone ?_, fun hout => ?_⟩⟩
  · exact congrArg (finish s) (if_neg (by omega))
  · exact congrArg (finish s) (if_pos hout)

end Sys2Proof.Machine

/-! The divides: what one execution does, and eighteen of them under a REPEAT. -/

namespace Sys2Proof.Machine

/-! ## One execution of a divide (R300 to R311, log entry 33) -/

/-- A divide with a legal divisor and dividend is one `DivStep` (R307). -/
theorem exec_divInstr {k : DivKind} {m n : WReg} (h0 : n ≠ 0#4) (h1 : n ≠ 1#4)
    (hm : k = .sd ∨ k = .ud → m.isEven = true) (s : State) :
    exec (divInstr k m n) s = finish s (.ok (advance 1 (divStep k m n s))) := by
  have hn : requireDivisor n = .ok () := requireDivisor_other h0 h1
  cases k with
  | sw | uw | frac =>
    simp [exec, divInstr, execDivSW, execDivUW, execDivF, divideWord, hn]
  | sd | ud =>
    have he : requireEven m = .ok () := requireEven_even (hm (by simp))
    simp [exec, divInstr, execDivSD, execDivUD, divideDouble, hn, he]

/-- The record of an instruction under way holds nothing new but modified registers. -/
def OnlyModified (a b : Access) : Prop := b = { a with modified := b.modified }

/-- `t` is `s` but for W0, W1, their marks, `dv`, the modified registers and the count of free values. -/
def OnlyResults (s t : State) : Prop :=
  t = { s with w := t.w, winit := t.winit, dv := t.dv, cur := t.cur, draws := t.draws }
    ∧ SameWBut [0#4, 1#4] s t ∧ OnlyModified s.cur t.cur

theorem OnlyResults.trans {s t u : State} (h : OnlyResults s t) (h' : OnlyResults t u) :
    OnlyResults s u := by
  obtain ⟨ht, hw, hc⟩ := h
  obtain ⟨hu, hw', hc'⟩ := h'
  refine ⟨?_, fun j hj => (hw' j hj).trans (hw j hj), ?_⟩
  · rw [hu, ht]
  · rw [OnlyModified, hc', hc]

theorem setW_onlyResults {n : WReg} (hn : n = 0#4 ∨ n = 1#4) (v : Word) (s : State) :
    OnlyResults s (setW n v s) := by
  refine ⟨rfl, fun j hj => ?_, rfl⟩
  have hj : j ≠ n := by rintro rfl; rcases hn with rfl | rfl <;> simp at hj
  rw [getW_setW, if_neg hj]

/-- W0 and W1 become the two words of a result. -/
theorem setW_setW_onlyResults (v w : Word) (s : State) :
    OnlyResults s (setW 1#4 v (setW 0#4 w s)) :=
  (setW_onlyResults (.inl rfl) w s).trans (setW_onlyResults (.inr rfl) v _)

theorem dv_onlyResults (d : Option DivRecord) (s : State) : OnlyResults s { s with dv := d } :=
  ⟨rfl, fun _ _ => rfl, rfl⟩

theorem freeResults_onlyResults (s : State) : OnlyResults s (freeResults s) :=
  OnlyResults.trans (t := { s with draws := s.draws + 2 }) ⟨rfl, fun _ _ => rfl, rfl⟩
    (setW_setW_onlyResults ..)

/-- An execution before the eighteenth leaves free values in W0 and W1, which the record keeps (R307). -/
theorem divideResult_before {s : State} {r : DivRecord} (hd : s.dv = some r) (hi : r.iter ≠ 18) :
    divideResult s = { freeResults s with dv := some { r with
      w0 := getW 0#4 (freeResults s), w1 := getW 1#4 (freeResults s) } } := by
  simp [divideResult, hd, hi]

/-- The eighteenth leaves quotient and remainder where the quotient fits (R307). -/
theorem divideResult_fits {s : State} {r : DivRecord} (hd : s.dv = some r) (hi : r.iter = 18)
    (hok : r.ok = true) : divideResult s
      = setW 1#4 (BitVec.ofInt 16 r.r) (setW 0#4 (BitVec.ofInt 16 r.q) { s with dv := none }) := by
  simp [divideResult, hd, hi, hok]

/-- The eighteenth leaves free values where the quotient does not fit (R309). -/
theorem divideResult_overflow {s : State} {r : DivRecord} (hd : s.dv = some r) (hi : r.iter = 18)
    (hok : r.ok = false) : divideResult s = { freeResults s with dv := none } := by
  simp [divideResult, hd, hi, hok]

/-- Without a record the results are free values (R307). -/
theorem divideResult_lost {s : State} (hd : s.dv = none) : divideResult s = freeResults s := by
  simp [divideResult, hd]

theorem divideResult_onlyResults (s : State) : OnlyResults s (divideResult s) := by
  have hfree (d : Option DivRecord) : OnlyResults s { freeResults s with dv := d } :=
    (freeResults_onlyResults s).trans (dv_onlyResults d _)
  cases hd : s.dv with
  | none => rw [divideResult_lost hd]; exact freeResults_onlyResults s
  | some r =>
    by_cases hi : r.iter = 18
    · cases hok : r.ok with
      | true =>
        rw [divideResult_fits hd hi hok]
        exact (dv_onlyResults none s).trans (setW_setW_onlyResults ..)
      | false => rw [divideResult_overflow hd hi hok]; exact hfree none
    · rw [divideResult_before hd hi]; exact hfree _

/-- A divide's end with `d` as the record brought up to date, the pc advanced. -/
def divided (d : Option DivRecord) (s : State) : State :=
  advance 1 (setFreeFlags (divideResult { s with dv := d }))

theorem divided_onlyResults (d : Option DivRecord) (s : State) :
    OnlyResults s (divideResult { s with dv := d }) :=
  (dv_onlyResults d s).trans (divideResult_onlyResults _)

/-- What sets the flags after the results, and moves the pc, changes no more than `DivideFrame` says. -/
theorem divideFrame_of_onlyResults {s t : State} (h : OnlyResults s t) :
    DivideFrame s (advance 1 (setFreeFlags t))
      ∧ DivideFrame s (advance 1 (raiseArith (setFreeFlags t))) := by
  obtain ⟨ht, hw, -⟩ := h
  constructor <;> refine ⟨?_, hw⟩ <;> rw [ht] <;> rfl

theorem divided_frame (d : Option DivRecord) (s : State) : DivideFrame s (divided d s) :=
  (divideFrame_of_onlyResults (divided_onlyResults d s)).1

theorem divided_stackPending (d : Option DivRecord) (s : State) :
    (divided d s).stackPending = s.stackPending := by
  rw [(divided_frame d s).1]

theorem divided_arithPending (d : Option DivRecord) (s : State) :
    (divided d s).arithPending = s.arithPending := by
  change (divideResult { s with dv := d }).arithPending = _
  rw [(divided_onlyResults d s).1]

theorem divided_cur (d : Option DivRecord) (s : State) : OnlyModified s.cur (divided d s).cur :=
  (divided_onlyResults d s).2.2

/-- An execution before the eighteenth: the record goes on, with the values left in W0 and W1 (R307). -/
theorem divided_dv_before {r : DivRecord} (hi : r.iter ≠ 18) (s : State) :
    (divided (some r) s).dv = some { r with
      w0 := getW 0#4 (divided (some r) s), w1 := getW 1#4 (divided (some r) s) } := by
  rw [divided, divideResult_before (s := { s with dv := some r }) rfl hi]; rfl

/-- The eighteenth uses the record up (R307). -/
theorem divided_dv_last {r : DivRecord} (hi : r.iter = 18) (s : State) :
    (divided (some r) s).dv = none := by
  cases hok : r.ok with
  | true => rw [divided, divideResult_fits (s := { s with dv := some r }) rfl hi hok]; rfl
  | false => rw [divided, divideResult_overflow (s := { s with dv := some r }) rfl hi hok]; rfl

/-- The eighteenth leaves the results where the quotient fits (R302 to R307). -/
theorem divided_results {r : DivRecord} (hi : r.iter = 18) (hok : r.ok = true) (s : State) :
    getW 0#4 (divided (some r) s) = BitVec.ofInt 16 r.q
      ∧ getW 1#4 (divided (some r) s) = BitVec.ofInt 16 r.r := by
  rw [divided, divideResult_fits (s := { s with dv := some r }) rfl hi hok]
  constructor
  · change getW 0#4 (setW 1#4 _ (setW 0#4 _ _)) = _
    rw [getW_setW, if_neg (by decide), getW_setW, if_pos rfl]; rfl
  · change getW 1#4 (setW 1#4 _ (setW 0#4 _ _)) = _
    rw [getW_setW, if_pos rfl]; rfl

theorem divided_dv_lost (s : State) : (divided none s).dv = none := by
  rw [divided, divideResult_lost rfl]; rfl

/-! ### The record (R307) -/

/-- The first execution's quotient and remainder: rounded toward zero, the remainder has the dividend's
sign (R302 to R306). -/
theorem startDivide_spec {k : DivKind} {n : WReg} {s : State} (hd : divisor k n s ≠ 0) (m : WReg) :
    let r := startDivide k m n s
    dividend k m s = r.q * divisor k n s + r.r ∧ r.r.natAbs < (divisor k n s).natAbs
      ∧ (0 ≤ dividend k m s → 0 ≤ r.r) ∧ (dividend k m s ≤ 0 → r.r ≤ 0) := by
  have hr : (startDivide k m n s).r = (dividend k m s).tmod (divisor k n s) := by
    rw [Int.tmod_def, Int.mul_comm]; rfl
  refine ⟨?_, ?_, fun h => ?_, fun h => ?_⟩
  · simp [startDivide]
  · rw [hr, Int.natAbs_tmod]
    exact Nat.mod_lt _ (Int.natAbs_pos.mpr hd)
  · rw [hr]; exact Int.tmod_nonneg _ h
  · rw [hr, ← Int.neg_nonneg, ← Int.neg_tmod]
    exact Int.tmod_nonneg _ (Int.neg_nonneg.mpr h)

theorem nextRecord_continues {n : WReg} {s : State} {r : DivRecord} (hd : s.dv = some r)
    (hc : continues r n s = true) : nextRecord n s = some { r with iter := r.iter + 1 } := by
  simp [nextRecord, hd, hc]

/-- A broken sequence has no record (R307). -/
theorem nextRecord_broken {n : WReg} {s : State}
    (hc : ∀ r, s.dv = some r → continues r n s = false) : nextRecord n s = none := by
  unfold nextRecord
  cases hd : s.dv with
  | none => rfl
  | some r => simp [hc r hd]

/-- What continues a sequence: the divide of the first execution, W0, W1 and the divisor untouched (R307). -/
theorem continues_iff {r : DivRecord} {n : WReg} {s : State} : continues r n s = true ↔
    r.pc0 = s.pc ∧ r.iter < 18 ∧ getW 0#4 s = r.w0 ∧ getW 1#4 s = r.w1 ∧ getW n s = r.dn := by
  simp [continues, and_assoc]

/-! ### The instruction -/

section Executions

variable {k : DivKind} {m n : WReg} {s : State}

theorem exec_divide_of_step (h0 : n ≠ 0#4) (h1 : n ≠ 1#4)
    (hm : k = .sd ∨ k = .ud → m.isEven = true) {d : Option DivRecord}
    (h : divStep k m n s = setFreeFlags (divideResult { s with dv := d })) :
    exec (divInstr k m n) s = .next (divided d s) := by
  rw [exec_divInstr h0 h1 hm, h]
  exact finish_ok (trapNested_same (divided_stackPending d s) (divided_arithPending d s))

/-- A first execution by a divisor that is not 0 samples the operands (R307). -/
theorem exec_divide_first (h0 : n ≠ 0#4) (h1 : n ≠ 1#4)
    (hm : k = .sd ∨ k = .ud → m.isEven = true) (hf : firstExecution s = true)
    (hd : divisor k n s ≠ 0) :
    exec (divInstr k m n) s = .next (divided (some (startDivide k m n s)) s) :=
  exec_divide_of_step h0 h1 hm (by rw [divStep, if_pos hf, if_neg hd])

/-- A first execution by 0 leaves ArithmeticError pending, where that trap may be raised (R308, R457). -/
theorem exec_divide_zero (h0 : n ≠ 0#4) (h1 : n ≠ 1#4)
    (hm : k = .sd ∨ k = .ud → m.isEven = true) (hf : firstExecution s = true)
    (hd : divisor k n s = 0) (hl : cpuLevel s < arithLevel s) :
    exec (divInstr k m n) s
      = .next (advance 1 (raiseArith (setFreeFlags (freeResults { s with dv := none })))) := by
  rw [exec_divInstr h0 h1 hm, divStep, if_pos hf, if_pos hd]
  exact finish_ok (trapNested_below (.inl rfl) (.inr hl))

/-- A later execution goes on with the record, if there is one to go on with (R307). -/
theorem exec_divide_next (h0 : n ≠ 0#4) (h1 : n ≠ 1#4)
    (hm : k = .sd ∨ k = .ud → m.isEven = true) (hf : firstExecution s = false) :
    exec (divInstr k m n) s = .next (divided (nextRecord n s) s) :=
  exec_divide_of_step h0 h1 hm (by rw [divStep, hf, if_neg Bool.false_ne_true])

end Executions

/-- Settles O43: a first execution and a later one each end in `divided`, by a record that
`startDivide_spec` describes or that counts on; by 0 the record is dropped and the trap raised. -/
theorem divide_executions : Obligations.divide_executions := by
  intro k m n s h0 h1 hm
  refine ⟨fun hf hd => ?first, fun hf hd hl => ?zero, fun hf r hr hc => ?next,
    fun hf hc => ?broken⟩
  case first =>
    obtain ⟨hquot, hrem, hpos, hneg⟩ := startDivide_spec hd m
    refine ⟨_, exec_divide_first h0 h1 hm hf hd, divided_frame .., divided_arithPending .., _,
      divided_dv_before (r := startDivide k m n s) nofun s, ?_⟩
    exact ⟨rfl, rfl, rfl, rfl, rfl, hquot, hrem, hpos, hneg, rfl⟩
  case zero =>
    have hfree : OnlyResults s (freeResults { s with dv := none }) :=
      (dv_onlyResults none s).trans (freeResults_onlyResults _)
    exact ⟨_, exec_divide_zero h0 h1 hm hf hd hl, (divideFrame_of_onlyResults hfree).2, rfl, rfl⟩
  case next =>
    have hexec := exec_divide_next h0 h1 hm hf
    rw [nextRecord_continues hr hc] at hexec
    have hlast (hi : r.iter = 17) : { r with iter := r.iter + 1 }.iter = 18 := congrArg (· + 1) hi
    refine ⟨_, hexec, divided_frame .., divided_arithPending .., fun hi => ?_, fun hi => ?_,
      fun hi hok => ?_⟩
    · exact divided_dv_before (by simp only; omega) s
    · exact divided_dv_last (hlast hi) s
    · exact divided_results (hlast hi) hok s
  case broken =>
    have hexec := exec_divide_next h0 h1 hm hf
    rw [nextRecord_broken hc] at hexec
    exact ⟨_, hexec, divided_frame .., divided_arithPending .., divided_dv_lost s⟩

end Sys2Proof.Machine

/-! Eighteen executions of a divide under a REPEAT. -/

namespace Sys2Proof.Machine

/-! ## A step outside DO loops -/

/-- The REPEAT rule changes RCOUNT, RA, the pc and `rpt_fresh` (R364). -/
theorem repeatRule_frame (i : Instr) (s t : State) :
    ∃ c r p f, repeatRule i s t = { t with rcount := c, sr := r, pc := p, rptFresh := f } := by
  have hc : ∃ f, clearFresh i t = { t with rptFresh := f } := by
    unfold clearFresh; split
    · exact ⟨t.rptFresh, rfl⟩
    · exact ⟨false, rfl⟩
  obtain ⟨f, hc⟩ := hc
  simp only [repeatRule, hc]
  split
  · exact ⟨_, _, _, f, rfl⟩
  · split <;> exact ⟨_, _, _, f, rfl⟩

/-- Outside DO loops, with W15 above the floor, an instruction's step always completes, and leaves registers,
memory, CORCON and a divide's record as the instruction left them (R364, R374, R432). -/
theorem complete_outside_loops {i : Instr} {s t : State} (hr : t.cur.reset = false)
    (hs : loopActive s = false) (ht : loopActive t = false)
    (hw : Config.ramBase ≤ (getW 15#4 t).toNat) :
    ∃ u, complete i s t = .ok u ∧ u.w = t.w ∧ u.ram = t.ram ∧ u.corcon = t.corcon
      ∧ u.dv = t.dv := by
  obtain ⟨c, r, p, f, hrule⟩ := repeatRule_frame i s t
  let v := { repeatRule i s t with edt := ageEdt (repeatRule i s t).edt }
  let u := record i s t (countDisi i s t v)
  have hu : u.w = t.w ∧ u.ram = t.ram ∧ u.corcon = t.corcon ∧ u.dv = t.dv := by
    simp only [u, v]
    rw [countDisi_like, hrule]
    exact ⟨rfl, rfl, rfl, rfl⟩
  have hfloor : belowFloor t u = false := by
    have hget : getW 15#4 u = getW 15#4 t := by rw [getW, hu.1]; rfl
    rw [belowFloor, hget, decide_eq_false (by omega), Bool.false_and]
  refine ⟨u, ?_, hu⟩
  simp only [complete, hr, Bool.false_eq_true, if_false, doRule_inactive hs ht, ok_bind]
  exact if_neg (by rw [hfloor]; exact Bool.false_ne_true)

/-! ## A divide at one boundary -/

theorem isRepeat_divInstr (k : DivKind) (m n : WReg) : isRepeat (divInstr k m n) = false := by
  cases k <;> rfl

/-- No divide is a REPEAT or a forbidden target of one (R366). -/
theorem preCheck_divInstr (k : DivKind) (m n : WReg) (s : State) :
    preCheck (divInstr k m n) s = none := by
  have hf : forbiddenTarget (divInstr k m n) = false := by cases k <;> rfl
  simp [preCheck, hf, isRepeat_divInstr]

theorem runInstr_of_complete {i : Instr} {s t u : State} (hp : preCheck i (resumeTarget s) = none)
    (he : exec i (resumeTarget s) = .next t) (hc : complete i (resumeTarget s) t = .ok u) :
    runInstr i s = .next u := by
  simp only [runInstr, hp, he, hc]

/-- The state in which the instruction at a boundary runs: the boundary opened, and `rpt_fresh` set again in
front of a target left behind (R80). -/
def running (s : State) : State := resumeTarget (openBoundary s)

theorem getW_running (n : WReg) (s : State) : getW n (running s) = getW n s := rfl

theorem dividend_running (k : DivKind) (m : WReg) (s : State) :
    dividend k m (running s) = dividend k m s := by cases k <;> rfl

theorem divisor_running (k : DivKind) (n : WReg) (s : State) :
    divisor k n (running s) = divisor k n s := by cases k <;> rfl

theorem startDivide_running (k : DivKind) (m n : WReg) (s : State) :
    startDivide k m n (running s) = startDivide k m n s := by
  simp only [startDivide, dividend_running, divisor_running, getW_running]; rfl

/-- A step of a divide under a REPEAT outside DO loops: W0, W1 and the record become those of `divided`, and
then the count goes down, or the loop ends (R307, R364). -/
theorem runInstr_divide {k : DivKind} {m n : WReg} {s : State} {d : Option DivRecord}
    (hra : s.sr.ra = true) (hs : loopActive s = false)
    (hw : Config.ramBase ≤ (getW 15#4 s).toNat)
    (hexec : exec (divInstr k m n) (running s) = .next (divided d (running s))) :
    ∃ u, runInstr (divInstr k m n) (openBoundary s) = .next u
      ∧ (∀ j, getW j u = getW j (divided d (running s))) ∧ u.dv = (divided d (running s)).dv
      ∧ SameWBut [0#4, 1#4] s u ∧ u.ram = s.ram ∧ loopActive u = false ∧ u.rptFresh = false
      ∧ (s.pc, getW 15#4 s) ∉ u.targets
      ∧ (s.rcount = 0#14 → u.rcount = 0#14 ∧ u.sr.ra = false ∧ u.pc = ahead 1 s.pc)
      ∧ (s.rcount ≠ 0#14 → u.rcount = s.rcount - 1#14 ∧ u.sr.ra = true ∧ u.pc = s.pc) := by
  obtain ⟨hframe, hregs⟩ := divided_frame d (running s)
  have hreset : (divided d (running s)).cur.reset = false := by rw [divided_cur d (running s)]; rfl
  have hpc : (divided d (running s)).pc = ahead 1 s.pc := by rw [hframe]; rfl
  have hrcount : (divided d (running s)).rcount = s.rcount := by rw [hframe]; rfl
  have hra' : (divided d (running s)).sr.ra = true := by rw [hframe]; exact hra
  have hram' : (divided d (running s)).ram = s.ram := by rw [hframe]; rfl
  have hs' : loopActive (divided d (running s)) = false := by rw [hframe]; exact hs
  have hw' : Config.ramBase ≤ (getW 15#4 (divided d (running s))).toNat := by
    rw [hregs _ (by decide)]; exact hw
  obtain ⟨u, hu, hwu, hram, hcorcon, hdv⟩ := complete_outside_loops (i := divInstr k m n)
    (s := running s) hreset hs hs' hw'
  obtain ⟨hfresh, hend, hmore⟩ :=
    complete_iteration (s := running s) (isRepeat_divInstr k m n) hra hs' hs hreset hu
  have hget (j : WReg) : getW j u = getW j (divided d (running s)) := by rw [getW, hwu]; rfl
  rw [hrcount, hpc] at hend
  rw [hrcount, hra'] at hmore
  refine ⟨u, runInstr_of_complete (preCheck_divInstr ..) hexec hu, hget, hdv,
    fun j hj => (hget j).trans (hregs j hj), hram.trans hram', ?_, hfresh, fun hmem => ?_, hend, hmore⟩
  · rw [loopActive, hcorcon]; exact hs'
  · exact (((complete_targets hreset hu).1 _).mp hmem).2 rfl

/-! ## The count under REPEAT #17 (R300, R307) -/

/-- The first execution's record as it stands after `j` executions, the last of which left `s`. -/
def DivRecord.after (r : DivRecord) (j : Nat) (s : State) : DivRecord :=
  { r with iter := j, w0 := getW 0#4 s, w1 := getW 1#4 s }

/-- `j` executions of a divide under REPEAT #17, the first of them in `s0` with the record `r`, have
left `s`, and more are to come. -/
structure UnderRepeat (r : DivRecord) (s0 : State) (j : Nat) (s : State) : Prop where
  pc : s.pc = s0.pc
  ra : s.sr.ra = true
  rcount : s.rcount.toNat + j = 17
  rptFresh : s.rptFresh = false
  targets : (s.pc, getW 15#4 s) ∉ s.targets
  inactive : loopActive s = false
  dv : s.dv = some (r.after j s)
  regs : SameWBut [0#4, 1#4] s0 s
  ram : s.ram = s0.ram

/-- The eighteenth execution has left `s`. -/
structure RepeatDone (r : DivRecord) (s0 s : State) : Prop where
  pc : s.pc = ahead 1 s0.pc
  ra : s.sr.ra = false
  rcount : s.rcount = 0#14
  dv : s.dv = none
  quotient : getW 0#4 s = BitVec.ofInt 16 r.q
  remainder : getW 1#4 s = BitVec.ofInt 16 r.r
  regs : SameWBut [0#4, 1#4] s0 s
  ram : s.ram = s0.ram

theorem firstExecution_fresh {s : State} (h : s.rptFresh = true) :
    firstExecution (running s) = true := by
  simp [firstExecution, running, h]

/-- An execution under RA is no first one, where no target has been left behind here (R80, R307). -/
theorem UnderRepeat.not_first {r : DivRecord} {s0 s : State} {j : Nat} (h : UnderRepeat r s0 j s) :
    firstExecution (running s) = false := by
  have ht : s.targets.contains (s.pc, getW 15#4 s) = false := by simpa using h.targets
  have hf : (running s).rptFresh = false := by
    change (s.rptFresh || s.targets.contains (s.pc, getW 15#4 s)) = false
    rw [h.rptFresh, ht]; rfl
  have hra : (running s).sr.ra = true := h.ra
  rw [firstExecution, hra, hf]; rfl

section Executions

variable {k : DivKind} {m n : WReg} {s0 s : State} {j : Nat}

/-- The first execution, right after REPEAT #17. -/
theorem underRepeat_first (h0 : n ≠ 0#4) (h1 : n ≠ 1#4)
    (hm : k = .sd ∨ k = .ud → m.isEven = true) (hra : s.sr.ra = true) (hf : s.rptFresh = true)
    (hc : s.rcount = 17#14) (hs : loopActive s = false) (hw : Config.ramBase ≤ (getW 15#4 s).toNat)
    (hd : divisor k n s ≠ 0) :
    ∃ u, runInstr (divInstr k m n) (openBoundary s) = .next u
      ∧ UnderRepeat (startDivide k m n s) s 1 u := by
  have hexec := exec_divide_first h0 h1 hm (firstExecution_fresh hf)
    (by rw [divisor_running]; exact hd)
  rw [startDivide_running] at hexec
  obtain ⟨u, hrun, hget, hdv, hregs, hram, hu, hfresh, htargets, -, hmore⟩ :=
    runInstr_divide hra hs hw hexec
  obtain ⟨hrcount, hra', hpc⟩ := hmore (by rw [hc]; decide)
  refine ⟨u, hrun, hpc, hra', by rw [hrcount, hc]; rfl, hfresh, ?_, hu, ?_, hregs, hram⟩
  · rw [hpc, hregs _ (by decide)]; exact htargets
  · rw [hdv, divided_dv_before (r := startDivide k m n s) nofun, ← hget, ← hget]; rfl

/-- The record of a sequence under REPEAT goes on: nothing has touched W0, W1 and the divisor (R307). -/
theorem UnderRepeat.nextRecord (h0 : n ≠ 0#4) (h1 : n ≠ 1#4)
    (h : UnderRepeat (startDivide k m n s0) s0 j s) (hj : j < 18) :
    Machine.nextRecord n (running s) = some ((startDivide k m n s0).after (j + 1) s) := by
  have hn : getW n s = getW n s0 := h.regs n (by simp [h0, h1])
  have hdv : (running s).dv = some ((startDivide k m n s0).after j s) := h.dv
  rw [nextRecord_continues hdv (continues_iff.mpr ⟨h.pc.symm, hj, rfl, rfl, hn⟩)]; rfl

/-- What every execution after the first does (R307, R364). -/
theorem UnderRepeat.run (h0 : n ≠ 0#4) (h1 : n ≠ 1#4)
    (hm : k = .sd ∨ k = .ud → m.isEven = true) (hw : Config.ramBase ≤ (getW 15#4 s0).toNat)
    (h : UnderRepeat (startDivide k m n s0) s0 j s) (hj : j < 17) :
    ∃ u, runInstr (divInstr k m n) (openBoundary s) = .next u
      ∧ UnderRepeat (startDivide k m n s0) s0 (j + 1) u := by
  have hexec := exec_divide_next h0 h1 hm h.not_first
  rw [h.nextRecord h0 h1 (by omega)] at hexec
  have h15 : getW 15#4 s = getW 15#4 s0 := h.regs _ (by decide)
  obtain ⟨u, hrun, hget, hdv, hregs, hram, hu, hfresh, htargets, -, hmore⟩ :=
    runInstr_divide h.ra h.inactive (by rw [h15]; exact hw) hexec
  have hcount := h.rcount
  have hne : s.rcount ≠ 0#14 := by intro e; rw [e] at hcount; simp at hcount; omega
  obtain ⟨hrcount, hra', hpc⟩ := hmore hne
  refine ⟨u, hrun, hpc.trans h.pc, hra', ?_, hfresh, ?_, hu, ?_,
    fun i hi => (hregs i hi).trans (h.regs i hi), hram.trans h.ram⟩
  · rw [hrcount, BitVec.toNat_sub_of_le (by bv_omega)]; simp; omega
  · rw [hpc, hregs _ (by decide)]; exact htargets
  · rw [hdv, divided_dv_before (by simp [DivRecord.after]; omega), ← hget, ← hget]; rfl

/-- The eighteenth execution ends the sequence and the REPEAT loop (R307, R364). -/
theorem UnderRepeat.last (h0 : n ≠ 0#4) (h1 : n ≠ 1#4)
    (hm : k = .sd ∨ k = .ud → m.isEven = true) (hw : Config.ramBase ≤ (getW 15#4 s0).toNat)
    (hok : (startDivide k m n s0).ok = true) (h : UnderRepeat (startDivide k m n s0) s0 17 s) :
    ∃ u, runInstr (divInstr k m n) (openBoundary s) = .next u
      ∧ RepeatDone (startDivide k m n s0) s0 u := by
  have hexec := exec_divide_next h0 h1 hm h.not_first
  rw [h.nextRecord h0 h1 (by omega)] at hexec
  have h15 : getW 15#4 s = getW 15#4 s0 := h.regs _ (by decide)
  obtain ⟨u, hrun, hget, hdv, hregs, hram, -, -, -, hend, -⟩ :=
    runInstr_divide h.ra h.inactive (by rw [h15]; exact hw) hexec
  have hcount := h.rcount
  obtain ⟨hrcount, hra', hpc⟩ := hend (by bv_omega)
  obtain ⟨hq, hr⟩ := divided_results (r := (startDivide k m n s0).after (17 + 1) s) rfl hok (running s)
  exact ⟨u, hrun, h.pc ▸ hpc, hra', hrcount, hdv.trans (divided_dv_last rfl _),
    (hget _).trans hq, (hget _).trans hr, fun i hi => (hregs i hi).trans (h.regs i hi),
    hram.trans h.ram⟩

theorem runTimes_succ {i : Instr} {s t : State} (h : runInstr i (openBoundary s) = .next t) (c : Nat) :
    runTimes i (c + 1) s = runTimes i c t := by
  rw [runTimes, h]

/-- The executions that are left, the eighteenth last. -/
theorem UnderRepeat.runTimes (h0 : n ≠ 0#4) (h1 : n ≠ 1#4)
    (hm : k = .sd ∨ k = .ud → m.isEven = true) (hw : Config.ramBase ≤ (getW 15#4 s0).toNat)
    (hok : (startDivide k m n s0).ok = true) (c : Nat) {s : State} {j : Nat}
    (h : UnderRepeat (startDivide k m n s0) s0 j s) (hj : j + c = 17) :
    ∃ t, Machine.runTimes (divInstr k m n) (c + 1) s = some t
      ∧ RepeatDone (startDivide k m n s0) s0 t := by
  induction c generalizing s j with
  | zero =>
    obtain rfl : j = 17 := hj
    obtain ⟨u, hrun, hu⟩ := h.last h0 h1 hm hw hok
    exact ⟨u, runTimes_succ hrun 0, hu⟩
  | succ c ih =>
    obtain ⟨u, hrun, hu⟩ := h.run h0 h1 hm hw (by omega)
    obtain ⟨t, ht, hdone⟩ := ih hu (by omega)
    exact ⟨t, (runTimes_succ hrun _).trans ht, hdone⟩

end Executions

/-! ## The results as integers (R302 to R306) -/

/-- A word of a divide's result as the integer that it stands for. -/
def DivKind.value (k : DivKind) (w : Word) : Int :=
  match k with
  | .sw | .sd | .frac => w.toInt
  | .uw | .ud => (w.toNat : Int)

/-- `x` is the value of some word. -/
def DivKind.Holds (k : DivKind) (x : Int) : Prop :=
  match k with
  | .sw | .sd | .frac => -32768 ≤ x ∧ x ≤ 32767
  | .uw | .ud => 0 ≤ x ∧ x ≤ 65535

theorem DivKind.value_ofInt {k : DivKind} {x : Int} (h : k.Holds x) :
    k.value (BitVec.ofInt 16 x) = x := by
  cases k with
  | sw | sd | frac =>
    obtain ⟨hlo, hhi⟩ := h
    exact BitVec.toInt_ofInt_eq_self (by decide) (by omega) (by omega)
  | uw | ud =>
    obtain ⟨hlo, hhi⟩ := h
    simp only [value, BitVec.toNat_ofInt]
    omega

/-- A quotient that fits is the value of a word: an unsigned one is not negative. -/
theorem quotient_holds {k : DivKind} {m n : WReg} {s : State}
    (h : quotientFits k ((dividend k m s).tdiv (divisor k n s)) = true) :
    k.Holds (startDivide k m n s).q := by
  cases k with
  | sw | sd | frac => simpa [quotientFits, DivKind.Holds, startDivide] using h
  | uw | ud =>
    exact ⟨Int.tdiv_nonneg (Int.natCast_nonneg _) (Int.natCast_nonneg _),
      by simpa [quotientFits, startDivide] using h⟩

/-- A remainder is the value of a word, being smaller than the divisor. -/
theorem remainder_holds {k : DivKind} {n : WReg} {s : State} (hd : divisor k n s ≠ 0) (m : WReg) :
    k.Holds (startDivide k m n s).r := by
  obtain ⟨-, hlt, hpos, -⟩ := startDivide_spec hd m
  generalize (startDivide k m n s).r = r at hlt hpos
  have hword := (getW n s).isLt
  cases k with
  | sw | sd | frac =>
    have hlo := BitVec.le_toInt (getW n s)
    have hhi := BitVec.toInt_lt (x := getW n s)
    simp only [divisor] at hlt
    exact ⟨by omega, by omega⟩
  | uw | ud =>
    have hr := hpos (Int.natCast_nonneg _)
    simp only [divisor] at hlt
    exact ⟨hr, by omega⟩

/-- Settles O44: the first execution makes the record, sixteen count on, and the eighteenth leaves quotient
and remainder, which the words W0 and W1 hold. -/
theorem divide_in_eighteen : Obligations.divide_in_eighteen := by
  intro k m n s h0 h1 hm hra hf hc hs hw hd hq value
  have hvalue (w : Word) : value w = k.value w := by cases k <;> rfl
  obtain ⟨u, hrun, hu⟩ := underRepeat_first h0 h1 hm hra hf hc hs hw hd
  obtain ⟨t, ht, hdone⟩ := hu.runTimes h0 h1 hm hw hq 16 rfl
  have hquot : value (getW 0#4 t) = (startDivide k m n s).q := by
    rw [hvalue, hdone.quotient, DivKind.value_ofInt (quotient_holds hq)]
  have hrem : value (getW 1#4 t) = (startDivide k m n s).r := by
    rw [hvalue, hdone.remainder, DivKind.value_ofInt (remainder_holds hd m)]
  obtain ⟨hdividend, hlt, hpos, hneg⟩ := startDivide_spec hd m
  refine ⟨t, (runTimes_succ hrun 17).trans ht, ?_⟩
  rw [hquot, hrem]
  exact ⟨hdividend, hlt, hpos, hneg, hdone.pc, hdone.ra, hdone.rcount, hdone.dv, hdone.regs,
    fun b => by rw [hdone.ram]⟩

end Sys2Proof.Machine

/-! An exception entry, and the RETFIE that undoes it. -/

namespace Sys2Proof.Machine

/-! ## The pushes of an entry (R435, R450)

RA is cleared before the pushes, and a trap's request too; neither bears on a push to storage. -/

/-- What a push needs to store in RAM and raise no trap, whether it is checked or not. -/
def PushSafe (s : State) : Prop :=
  moduloOn s = false ∧ (getW 15#4 s).getLsbD 0 = false
    ∧ regionOf .word (getW 15#4 s) s = .storage ∧ stackBad (getW 15#4 s) s = false
    ∧ wraps .dest 15#4 2 s = false

theorem pushNext_eq_pushed {s : State} (h : pushReady s = true) (v : Word) :
    pushNext v s = pushed v s := by
  rw [pushNext_eq h]; rfl

theorem getW_pushed {s : State} (h : PushSafe s) (v : Word) (n : WReg) :
    getW n (pushed v s) = if n = 15#4 then getW 15#4 s + 2#16 else getW n s := by
  obtain ⟨-, heven, -⟩ := h
  change getW n (putW 15#4 (getW 15#4 s + 2#16) s) = _
  rw [getW_putW, fixedW_even (even_add heven (by decide))]

/-- A write to storage is none to SPLIM. -/
theorem memWrite_storage_wroteSplim {sz : Size} {a v : Word} {s t : State}
    (hr : regionOf sz a s = .storage) (h : memWrite sz a v s = .ok t) :
    t.cur.wroteSplim = s.cur.wroteSplim := by
  unfold memWrite at h
  split at h
  · cases h
  · simp only [hr] at h
    cases h
    split <;> cases sz <;> rfl

/-- A push to storage writes no SPLIM. -/
theorem push_storage_wroteSplim {role : Role} {v : Word} {s t : State}
    (hr : regionOf .word (getW 15#4 s) s = .storage) (h : push role v s = .ok t) :
    t.cur.wroteSplim = s.cur.wroteSplim := by
  obtain ⟨⟨ea, u⟩, hu, h⟩ := bind_ok h
  have hcur : u.cur = (noteEA role 15#4 s).cur := useEA_cur hu
  have hregion : regionOf .word ea (movePtr role 15#4 2 u) = .storage := by
    unfold useEA at hu
    split at hu <;> cases hu
    rw [← hr]
    unfold stackCheck movePtr
    split <;> split <;> split <;> rfl
  rw [memWrite_storage_wroteSplim hregion h, movePtr_cur, hcur]
  split <;> rfl

theorem push_safe {role : Role} {s : State} (h : PushSafe s) (hrole : role ≠ .source) (v : Word) :
    ∃ c, push role v s = .ok ((pushed v s).at' c s.draws) ∧ c.wroteSplim = s.cur.wroteSplim := by
  obtain ⟨hm, he, hr, hb, hw⟩ := h
  have hw' : wraps role 15#4 2 s = false := by
    cases role with
    | source => exact absurd rfl hrole
    | dest => exact hw
    | entry => simp [wraps]
  obtain ⟨c, hpush⟩ := push_storage (v := v) hm he hr (fun _ => hb) hw' hrole
  exact ⟨c, hpush, push_storage_wroteSplim hr hpush⟩

/-- Two pushes, one after the other, that store in RAM and raise no trap. -/
def PushTwoSafe (s : State) : Prop := PushSafe s ∧ ∀ v, PushSafe (pushed v s)

theorem pushTwoSafe_of_ready {lo : Word} {s : State} (h : pushTwoReady lo s = true) :
    PushTwoSafe s := by
  simp only [pushTwoReady, Bool.and_eq_true] at h
  obtain ⟨h1, h2⟩ := h
  rw [pushNext_eq_pushed h1] at h2
  exact ⟨pushReady_spec h1, fun _ => pushReady_spec h2⟩

/-- The second word of two safe pushes is in RAM, and in bounds. -/
theorem PushTwoSafe.second {s : State} (h : PushTwoSafe s) :
    regionOf .word (getW 15#4 s + 2#16) s = .storage
      ∧ stackBad (getW 15#4 s + 2#16) s = false := by
  obtain ⟨h1, h2⟩ := h
  obtain ⟨-, -, hr, hb, -⟩ := h2 0#16
  rw [getW_pushed h1, if_pos rfl] at hr hb
  exact ⟨hr, hb⟩

theorem getW_pushed_pushed {s : State} (h : PushTwoSafe s) (lo hi : Word) (n : WReg) :
    getW n (pushed hi (pushed lo s)) = if n = 15#4 then getW 15#4 s + 4#16 else getW n s := by
  obtain ⟨h1, h2⟩ := h
  rw [getW_pushed (h2 lo), getW_pushed h1, getW_pushed h1]
  by_cases hn : n = 15#4
  · rw [if_pos hn, if_pos rfl, if_pos hn, BitVec.add_assoc]; rfl
  · rw [if_neg hn, if_neg hn, if_neg hn]

theorem ram_pushed_pushed {s : State} (h : PushTwoSafe s) (lo hi : Word) :
    (pushed hi (pushed lo s)).ram = (storageWrite .word (getW 15#4 s + 2#16) hi
      (storageWrite .word (getW 15#4 s) lo s)).ram := by
  obtain ⟨h1, -⟩ := h
  have hw : getW 15#4 (pushed lo s) = getW 15#4 s + 2#16 := by rw [getW_pushed h1, if_pos rfl]
  rw [pushed, hw]; rfl

/-! ## The entry (R450) -/

/-- The state in which an entry's pushes are made. -/
def entryStart (e : Exception) (s : State) : State := setRa false (holdTarget (clearPending e s))

theorem entryStart_eq (e : Exception) (s : State) : entryStart e s = { s with
    rptFresh := (entryStart e s).rptFresh, targets := (entryStart e s).targets
    stackPending := (entryStart e s).stackPending, arithPending := (entryStart e s).arithPending
    sr := { s.sr with ra := false } } := by
  rw [entryStart, holdTarget_eq]
  cases e <;> rfl

theorem PushTwoSafe.entryStart {s : State} (h : PushTwoSafe s) (e : Exception) :
    PushTwoSafe (entryStart e s) := by
  rw [entryStart_eq]; exact h

theorem entryDisi_eq (s : State) : entryDisi s
    = { s with disicnt := (entryDisi s).disicnt, draws := (entryDisi s).draws } := by
  unfold entryDisi; split <;> rfl

theorem enterLevel_eq (e : Exception) (s : State) : enterLevel e s = { s with
    sr := { s.sr with ipl := (enterLevel e s).sr.ipl }
    corcon := { s.corcon with ipl3 := (enterLevel e s).corcon.ipl3 } } := by
  cases e <;> rfl

/-- The state an entry ends in, after its pushes have left `t` (R450). -/
def entryEnd (e : Exception) (t : State) : State :=
  let v := enterLevel e t
  let u := entryDisi (setPc (vectorOf e v) v)
  { u with edt := ageEdt u.edt, adjacent := false, hist := noteEntry u.cur u.hist }

theorem entryEnd_eq (e : Exception) (t : State) : entryEnd e t = { t with
    pc := (entryEnd e t).pc, disicnt := (entryEnd e t).disicnt, draws := (entryEnd e t).draws
    edt := (entryEnd e t).edt, adjacent := false, hist := noteEntry t.cur t.hist
    sr := { t.sr with ipl := (entryEnd e t).sr.ipl }
    corcon := { t.corcon with ipl3 := (entryEnd e t).corcon.ipl3 } } := by
  simp only [entryEnd]
  rw [entryDisi_eq, enterLevel_eq]
  rfl

/-- An entry whose pushes are safe makes them and ends. The status is stacked with RA as it was (R450). -/
theorem takeException_safe {s : State} (h : PushTwoSafe s) (e : Exception) :
    ∃ c, takeException e s = .ok (entryEnd e ((pushed (statusWord s)
        (pushed (s.pc.extractLsb' 0 16) (entryStart e s))).at' c s.draws))
      ∧ c.wroteSplim = s.cur.wroteSplim := by
  have hrole : (if e = .stackError then Role.entry else .dest) ≠ .source := by split <;> nofun
  have hdraws : (entryStart e s).draws = s.draws := by rw [entryStart_eq]
  obtain ⟨h1, h2⟩ := h.entryStart e
  obtain ⟨c1, e1, hc1⟩ := push_safe h1 hrole (s.pc.extractLsb' 0 16)
  have hstatus : statusWord (setRa s.sr.ra
      ((pushed (s.pc.extractLsb' 0 16) (entryStart e s)).at' c1 (entryStart e s).draws))
      = statusWord s := by
    rw [entryStart_eq]; rfl
  obtain ⟨c2, e2, hc2⟩ := push_safe
    (s := (pushed (s.pc.extractLsb' 0 16) (entryStart e s)).at' c1 (entryStart e s).draws)
    (h2 (s.pc.extractLsb' 0 16)) hrole (statusWord s)
  refine ⟨c2, ?_, hc2.trans (hc1.trans (by rw [entryStart_eq]))⟩
  unfold takeException
  change (push _ _ (entryStart e s) >>= _) = _
  rw [e1, ok_bind, hstatus, e2, ok_bind, pushed_at, hdraws]
  rfl

/-- What an entry leaves unchanged (R450). -/
def EntryFrame (s t : State) : Prop :=
  t = { s with
    w := t.w, ram := t.ram, cur := t.cur, draws := t.draws, disicnt := t.disicnt, edt := t.edt
    adjacent := t.adjacent, hist := t.hist, pc := t.pc, rptFresh := t.rptFresh, targets := t.targets
    stackPending := t.stackPending, arithPending := t.arithPending
    sr := { s.sr with ra := t.sr.ra, ipl := t.sr.ipl }
    corcon := { s.corcon with ipl3 := t.corcon.ipl3 } }

/-- The entry's own pushes apart, SPLIM was written just before the handler's first instruction where it was
written just before the entry (R490). -/
theorem previously_noteEntry {c : Access} {s t : State} (hc : c.wroteSplim = false)
    (hs : ∀ x ∈ s.hist.head?, x.access.wroteSplim = false) (ht : t.hist = noteEntry c s.hist) :
    previously (fun e => e.access.wroteSplim) t = false := by
  rw [previously, ht]
  cases hh : s.hist with
  | nil => rfl
  | cons x l =>
    have hx : x.access.wroteSplim = false := hs x (by simp [hh])
    simp [noteEntry, hx, hc]

/-- A safe entry stacks the pc's low word and the status, and changes nothing else but as R450 says. -/
theorem takeException_stacks {s : State} (h : PushTwoSafe s) (e : Exception)
    (hcur : s.cur.wroteSplim = false) (hhist : ∀ x ∈ s.hist.head?, x.access.wroteSplim = false) :
    ∃ t, takeException e s = .ok t ∧ StackedTwo (s.pc.extractLsb' 0 16) (statusWord s) s t
      ∧ EntryFrame s t ∧ previously (fun e => e.access.wroteSplim) t = false := by
  obtain ⟨c, hentry, hc⟩ := takeException_safe h e
  generalize hp : pushed (statusWord s) (pushed (s.pc.extractLsb' 0 16) (entryStart e s)) = p
    at hentry
  have hframe : EntryFrame s (entryEnd e (p.at' c s.draws)) := by
    rw [EntryFrame, entryEnd_eq, ← hp, entryStart_eq]; rfl
  have hpw : (entryEnd e (p.at' c s.draws)).w = p.w := by rw [entryEnd_eq]; rfl
  have hpram : (entryEnd e (p.at' c s.draws)).ram = p.ram := by rw [entryEnd_eq]; rfl
  have hget (n : WReg) : getW n (entryEnd e (p.at' c s.draws))
      = if n = 15#4 then getW 15#4 s + 4#16 else getW n s := by
    rw [getW, hpw, ← getW, ← hp, getW_pushed_pushed (h.entryStart e), entryStart_eq]; rfl
  have hram : (entryEnd e (p.at' c s.draws)).ram = (storageWrite .word (getW 15#4 s + 2#16)
      (statusWord s) (storageWrite .word (getW 15#4 s) (s.pc.extractLsb' 0 16) s)).ram := by
    rw [hpram, ← hp, ram_pushed_pushed (h.entryStart e), entryStart_eq]; rfl
  have hregion (a : Word) :
      regionOf .word a (entryEnd e (p.at' c s.draws)) = regionOf .word a s := by
    rw [hframe]; rfl
  have hprev : (entryEnd e (p.at' c s.draws)).hist = noteEntry c s.hist := by
    rw [entryEnd_eq, ← hp, entryStart_eq]; rfl
  obtain ⟨⟨-, heven, hr, -⟩, -⟩ := id h
  exact ⟨_, hentry, stackedTwo_intro heven hr h.second.1 hram hregion hget, hframe,
    previously_noteEntry (hc.trans hcur) hhist hprev⟩

/-! ## The pops of RETFIE (R330, R332) -/

/-- A pop reads the word under W15. -/
theorem popAddr_of_top {a : Word} {s : State} (htop : getW 15#4 s = a + 2#16)
    (heven : a.getLsbD 0 = false) : popAddr s = a := by
  rw [popAddr_eq, htop, BitVec.add_sub_cancel]
  exact fixedW_even heven

/-- A pop of a word in RAM. -/
theorem pop_storage {a : Word} {s : State} (hm : moduloOn s = false)
    (hs : previously (fun e => e.access.wroteSplim) s = false) (htop : getW 15#4 s = a + 2#16)
    (heven : a.getLsbD 0 = false) (hr : regionOf .word a s = .storage) :
    popMade s = true ∧ popTraps s = stackBad a s ∧ popVal s = storageRead .word a s
      ∧ getW 15#4 (popNext s) = a := by
  have ha : popAddr s = a := popAddr_of_top htop heven
  have hr' : regionOf .word a (moved 15#4 (-2) s) = .storage := by rw [regionOf_moved]; exact hr
  refine ⟨?_, by rw [popTraps, ha], ?_, by rw [popNext_moved]; exact ha⟩
  · have hpointed : pointedAt 2 .preDec 15#4 s = moved 15#4 (-2) s := rfl
    have hmis : misaligned .word a = false := heven
    simp [popMade, hm, hs, ha, hpointed, readableWord, readable, hmis, hr', Region.draws]
  · change readVal .word (popAddr s) (moved 15#4 (-2) s) = _
    rw [ha, readVal, hr', moved_eq]; rfl

theorem orStack_false (u : State) : u.orStack false = u := by rw [State.orStack, Bool.or_false]

/-- RETFIE takes back what an entry stacked, and W15 with it, and raises no trap. -/
theorem returnFromException_stacked {lo hi : Word} {s t : State} (hwf : Memory.wf s.ram = true)
    (h : PushTwoSafe s) (hstack : StackedTwo lo hi s t) (hframe : EntryFrame s t)
    (hprev : previously (fun e => e.access.wroteSplim) t = false) :
    (∃ c, returnFromException t
        = .ok (setPc (stackedPc hi lo) (restoreStatus hi ((popTwo t).at' c t.draws))))
      ∧ ∀ n, getW n (popTwo t) = getW n s := by
  obtain ⟨hr2, hb2⟩ := h.second
  obtain ⟨⟨hm, heven, hr1, hb1, -⟩, -⟩ := h
  obtain ⟨h15, hregs, hread, -⟩ := hstack
  obtain ⟨hlo, hhi⟩ := hread hwf
  have heven2 : (getW 15#4 s + 2#16).getLsbD 0 = false := even_add heven (by decide)
  have hregion (a : Word) : regionOf .word a t = regionOf .word a s := by rw [hframe]; rfl
  have hbad (a : Word) : stackBad a t = stackBad a s := by rw [hframe]; rfl
  have hmod : moduloOn t = false := by rw [hframe]; exact hm
  have hmis : misaligned .word (getW 15#4 s) = false := heven
  have hmis2 : misaligned .word (getW 15#4 s + 2#16) = false := heven2
  rw [memRead_storage hmis ((hregion _).trans hr1)] at hlo
  rw [memRead_storage hmis2 ((hregion _).trans hr2)] at hhi
  have htop : getW 15#4 t = getW 15#4 s + 2#16 + 2#16 := by rw [h15, BitVec.add_assoc]; rfl
  obtain ⟨made1, traps1, val1, top1⟩ := pop_storage hmod hprev htop heven2 ((hregion _).trans hr2)
  have hnext : popNext t = { t with w := (popNext t).w } := popNext_eq t
  obtain ⟨made2, traps2, val2, top2⟩ := pop_storage (s := popNext t) (by rw [hnext]; exact hmod)
    (by rw [hnext]; exact hprev) top1 heven (by rw [hnext]; exact (hregion _).trans hr1)
  have hhi' : popHi t = hi := val1.trans (by cases hhi; rfl)
  have hlo' : popLo t = lo := val2.trans (by rw [hnext]; cases hlo; rfl)
  have htraps : (popTraps t || popTraps (popNext t)) = false := by
    rw [traps1, traps2, hbad, hb2, hnext]; exact (hbad _).trans hb1
  refine ⟨?_, fun n => ?_⟩
  · obtain ⟨c, hreturn⟩ := returnFromException_made made1 made2
    rw [hhi', hlo', htraps, orStack_false] at hreturn
    exact ⟨c, hreturn⟩
  · by_cases hn : n = 15#4
    · rw [hn]; exact top2
    · rw [getW_popTwo t hn, hregs n (by simpa using hn)]

/-! ## What the stacked status restores (R332) -/

theorem statusWord_high (s : State) : (statusWord s).extractLsb' 8 8 = srLow s := by
  unfold statusWord
  rw [BitVec.extractLsb'_append_eq_of_le (by decide)]
  exact BitVec.extractLsb'_append_eq_left

theorem statusWord_ipl3 (s : State) : (statusWord s).getLsbD 7 = s.corcon.ipl3 := by
  simp only [statusWord, BitVec.getLsbD_append, BitVec.getLsbD_ofBool]
  simp

/-- The pc's two stacked parts give the pc back (R330, R450). -/
theorem stackedPc_statusWord {s : State} (h : s.pc.getLsbD 0 = false) :
    stackedPc (statusWord s) (s.pc.extractLsb' 0 16) = s.pc := by
  have hhi : (statusWord s).extractLsb' 0 7 = s.pc.extractLsb' 16 7 :=
    BitVec.extractLsb'_append_eq_right
  have hlo : (s.pc.extractLsb' 0 16).extractLsb' 1 15 = s.pc.extractLsb' 1 15 :=
    BitVec.eq_of_getLsbD_eq fun i hi => by simp [hi]
  have hbit : 0#1 = s.pc.extractLsb' 0 1 := BitVec.eq_of_getLsbD_eq fun i hi => by
    obtain rfl : i = 0 := by omega
    simpa using h
  rw [stackedPc, hhi, hlo, hbit]
  iterate 2 rw [BitVec.extractLsb'_append_extractLsb'_eq_extractLsb' (by rfl)]
  exact BitVec.extractLsb'_eq_self

/-- A return from an entry made in `s` restores SR and CORCON: the rest of them the entry has left alone. -/
theorem restoreStatus_statusWord {s u : State}
    (hsr : u.sr = { s.sr with ra := u.sr.ra, ipl := u.sr.ipl })
    (hcorcon : u.corcon = { s.corcon with ipl3 := u.corcon.ipl3 }) (p : PAddr) :
    let v := setPc p (restoreStatus (statusWord s) u)
    srWord v = srWord s ∧ corconWord v = corconWord s := by
  intro v
  have hlow : srLow v = srLow s := (srLow_restoreStatus ..).trans (statusWord_high s)
  have hhigh : srHigh v = srHigh s := by
    change srHigh u = srHigh s
    rw [srHigh, loopActive, hsr, hcorcon]; rfl
  have hctl : v.corcon = s.corcon := by
    simp only [v, setPc_corcon, restoreStatus, statusWord_ipl3]
    rw [hcorcon]
  exact ⟨by rw [srWord, hlow, hhigh]; rfl, by rw [corconWord, hctl]; rfl⟩

/-! ## An entry and its return -/

/-- A target in front of which an entry was made has `rpt_fresh` again when it runs (R300, log entry 55). -/
theorem resumeTarget_of_mem {p : PAddr} {v : Word} {u : State} (hmem : (p, v) ∈ u.targets)
    (hpc : u.pc = p) (hw : getW 15#4 u = v) : (resumeTarget u).rptFresh = true := by
  subst hpc hw
  rw [resumeTarget_eq]
  simp [hmem]

/-- Settles O60: the entry stacks the pc and the status, and RETFIE pops the same words. -/
theorem exception_round_trip : Obligations.exception_round_trip := by
  intro e s hwf hpc hready hcur hhist
  have hsafe : PushTwoSafe s := pushTwoSafe_of_ready hready
  obtain ⟨t, hentry, hstack, hframe, hprev⟩ := takeException_stacks hsafe e hcur hhist
  obtain ⟨⟨c, hreturn⟩, hget⟩ := returnFromException_stacked hwf hsafe hstack hframe hprev
  have hpop := popTwo_eq t
  obtain ⟨-, hpending, harith⟩ := popTwo_sameControl t
  generalize popTwo t = v at hreturn hget hpop hpending harith
  have hexec : exec .retfie t = .next (setPc s.pc (restoreStatus (statusWord s)
      (v.at' c t.draws))) := by
    change finish t (returnFromException t) = _
    rw [hreturn, stackedPc_statusWord hpc]
    exact finish_ok (trapNested_same hpending harith)
  obtain ⟨hsr, hcorcon⟩ := restoreStatus_statusWord (s := s) (u := v.at' c t.draws)
    (by rw [hpop, hframe]; rfl) (by rw [hpop, hframe]; rfl) s.pc
  obtain ⟨-, -, -, hmem⟩ := hstack
  refine ⟨t, _, hentry, hexec, rfl, hsr, hcorcon, hget, ?_, ?_, ?_, ?_, fun hfresh => ?fresh, ?_,
    fun b b1 b2 => ?memory⟩
  case fresh =>
    obtain ⟨htarget, -⟩ := (takeException_targets hentry).2 hfresh
    refine resumeTarget_of_mem ?_ rfl (hget 15#4)
    rw [hpop]; exact htarget
  case memory => rw [← hmem b b1 b2, hpop]; rfl
  all_goals rw [hpop, hframe]; rfl

end Sys2Proof.Machine

/-! RETURN, RETLW and RETFIE in bounds, and NOP (R330 to R332, R340). -/

namespace Sys2Proof.Machine

/-! ## The two pops of a return (R330, R332)

Where both are ready they move W15 alone, so all else that an instruction finds after them is as before. -/

theorem sameMemory_popTwo (s : State) : SameMemory s (popTwo s) := fun _ => by rw [popTwo_eq]

theorem sameWBut_popTwo (s : State) : SameWBut [15#4] s (popTwo s) :=
  fun _ hn => getW_popTwo s (by simpa using hn)

theorem sr_popTwo (s : State) : (popTwo s).sr = s.sr := by rw [popTwo_eq]

theorem popReturn_ready {s : State} (h : popTwoReady s = true) :
    ∃ c k, popReturn s
      = .ok (setPc (stackedPc (popHi s) (popLo s)) ((popTwo s).at' c k)) := by
  obtain ⟨c1, k1, c, k, hhi, hlo⟩ := popTwo_ready h s.cur s.draws
  rw [at_self] at hhi
  exact ⟨c, k, by simp only [popReturn, hhi, hlo, ok_bind, pure_ok]⟩

theorem returnFromException_ready {s : State} (h : popTwoReady s = true) :
    ∃ c k, returnFromException s = .ok (setPc (stackedPc (popHi s) (popLo s))
      (restoreStatus (popHi s) ((popTwo s).at' c k))) := by
  obtain ⟨c1, k1, c, k, hhi, hlo⟩ := popTwo_ready h s.cur s.draws
  rw [at_self] at hhi
  exact ⟨c, k, by simp only [returnFromException, hhi, hlo, ok_bind, pure_ok]⟩

/-! ## RETURN and RETLW (R330, R331) -/

theorem exec_ret_ready {s : State} (h : popTwoReady s = true) :
    ∃ c k, exec .ret s
      = .next (setPc (stackedPc (popHi s) (popLo s)) ((popTwo s).at' c k)) := by
  obtain ⟨c, k, hpop⟩ := popReturn_ready h
  obtain ⟨-, hstack, harith⟩ := popTwo_sameControl s
  refine ⟨c, k, ?_⟩
  change finish s (popReturn s) = _
  rw [hpop]
  exact finish_ok (trapNested_same hstack harith)

theorem setWSized_sameControl (sz : Size) (n : WReg) (v : Word) (s : State) :
    SameControl s (setWSized sz n v s) :=
  dstNext_sameControl sz .direct n v s

/-- The register is written after the pops (R115, log entry 66). -/
theorem exec_retlw_ready {wd : WReg} {s : State} (hwd : wd ≠ 15#4) (h : popTwoReady s = true)
    (sz : Size) (lit : BitVec 10) :
    ∃ c k, exec (.retlw sz lit wd) s = .next (setWSized sz wd (lit.setWidth 16)
      (setPc (stackedPc (popHi s) (popLo s)) ((popTwo s).at' c k))) := by
  obtain ⟨c, k, hpop⟩ := popReturn_ready h
  obtain ⟨-, hstack, harith⟩ := popTwo_sameControl s
  refine ⟨c, k, ?_⟩
  change execRetlw sz lit wd s = _
  rw [execRetlw, if_neg hwd, hpop, ok_bind, pure_ok]
  obtain ⟨-, hs, ha⟩ := setWSized_sameControl sz wd (lit.setWidth 16)
    (setPc (stackedPc (popHi s) (popLo s)) ((popTwo s).at' c k))
  exact finish_ok (trapNested_same (hs.trans hstack) (ha.trans harith))

/-- The state an instruction ends in that sets the pc and then writes a register. -/
theorem ends_setWSized_setPc (p : PAddr) (u : State) (sz : Size) (n : WReg) (v : Word) (c : Access)
    (k : Nat) : Ends p (setWSized sz n v u) (setWSized sz n v (setPc p (u.at' c k))) := by
  cases sz <;> rfl

/-- A register's write leaves the memory, the other registers and the flags. -/
theorem setWSized_frame (sz : Size) (n : WReg) (v : Word) (s : State) :
    SameMemory s (setWSized sz n v s) ∧ SameWBut [n] s (setWSized sz n v s)
      ∧ (setWSized sz n v s).sr = s.sr := by
  obtain ⟨hmem, -⟩ := dstNext_frame sz .direct n v s
  obtain ⟨hregs, hsr, -⟩ := dstNext_other (sz := sz) (m := .direct) (n := n) (v := v) (s := s)
    fun hcore => hcore.1 rfl
  exact ⟨hmem rfl, hregs, hsr⟩

theorem getW_setW_same {n : WReg} (hn : n ≠ 15#4) (v : Word) (s : State) :
    getW n (setW n v s) = v := by
  rw [getW_setW, if_pos rfl, fixedW, if_neg hn]

/-- A byte write keeps the upper byte of its register (R27). -/
theorem getW_setWByte_same {n : WReg} (hn : n ≠ 15#4) (v : Byte) (s : State) :
    getW n (setWByte n v s) = (getW n s).extractLsb' 8 8 ++ v := by
  rw [setWByte, getW_noteModified, getW_putW_same, fixedW, if_neg hn]

/-- Settles O47: RETURN is the two pops and the jump; RETLW's write comes after them. -/
theorem return_result : Obligations.return_result := by
  refine ⟨fun s h => ?_, fun sz lit wd s hwd h => ?_⟩
  · obtain ⟨c, k, hexec⟩ := exec_ret_ready h
    exact ⟨_, hexec, ends_setPc _ _ c k, sameMemory_popTwo s, sameWBut_popTwo s, sr_popTwo s⟩
  · obtain ⟨c, k, hexec⟩ := exec_retlw_ready hwd h sz lit
    obtain ⟨hmem, hregs, hsr⟩ := setWSized_frame sz wd (lit.setWidth 16)
      (setPc (stackedPc (popHi s) (popLo s)) ((popTwo s).at' c k))
    refine ⟨_, hexec, ends_setWSized_setPc _ _ sz wd _ c k, ?value,
      fun b => (hmem b).trans (sameMemory_popTwo s b), fun n hn => ?_, hsr.trans (sr_popTwo s)⟩
    case value =>
      cases sz with
      | word => exact getW_setW_same hwd ..
      | byte =>
        have hlow : (lit.setWidth 16).setWidth 8 = lit.extractLsb' 0 8 := by
          rw [BitVec.setWidth_setWidth_of_le _ (by decide), BitVec.setWidth_eq_extractLsb' (by decide)]
        rw [← hlow, ← getW_popTwo s hwd]
        exact getW_setWByte_same hwd ..
    · obtain ⟨h15, hwd'⟩ : n ∉ [15#4] ∧ n ∉ [wd] := by simpa using hn
      exact (hregs n hwd').trans (sameWBut_popTwo s n h15)

/-! ## RETFIE (R332, R455) -/

theorem exec_retfie_ready {s : State} (h : popTwoReady s = true) :
    ∃ c k, exec .retfie s = .next (setPc (stackedPc (popHi s) (popLo s))
      (restoreStatus (popHi s) ((popTwo s).at' c k))) := by
  obtain ⟨c, k, hpop⟩ := returnFromException_ready h
  obtain ⟨-, hstack, harith⟩ := popTwo_sameControl s
  refine ⟨c, k, ?_⟩
  change finish s (returnFromException s) = _
  rw [hpop]
  exact finish_ok (trapNested_same hstack harith)

/-- What restoring the status leaves of the state `u` after the pops (R332). -/
theorem restoreStatus_result (p : PAddr) (u : State) (hi : Word) (c : Access) (k : Nat) :
    let t := setPc p (restoreStatus hi (u.at' c k))
    Ends p { u with sr := t.sr, corcon := t.corcon } t
      ∧ srLow t = hi.extractLsb' 8 8 ∧ srHigh t = srHigh u
      ∧ t.corcon = { u.corcon with ipl3 := hi.getLsbD 7 } :=
  ⟨rfl, srLow_restoreStatus hi u, rfl, rfl⟩

/-- Settles O48: of the status RETFIE restores SRL and IPL3, and the pops move W15 alone. -/
theorem retfie_result : Obligations.retfie_result := by
  intro s h
  obtain ⟨c, k, hexec⟩ := exec_retfie_ready h
  obtain ⟨hends, hlow, hhigh, hcorcon⟩ := restoreStatus_result
    (stackedPc (popHi s) (popLo s)) (popTwo s) (popHi s) c k
  have hhigh' : srHigh (popTwo s) = srHigh s := by rw [popTwo_eq]; rfl
  have hcorcon' : (popTwo s).corcon = s.corcon := by rw [popTwo_eq]
  exact ⟨_, hexec, hends, hlow, hhigh.trans hhigh', hcorcon' ▸ hcorcon, sameMemory_popTwo s,
    sameWBut_popTwo s⟩

/-! ## NOP (R340) -/

/-- An instruction that R366 does not name is refused neither as a REPEAT target nor in front of one. -/
theorem preCheck_allowed {i : Instr} (htarget : forbiddenTarget i = false)
    (hrepeat : isRepeat i = false) (s : State) : preCheck i s = none := by
  simp [preCheck, htarget, hrepeat]

/-- What R380 and R381 ask of the last instruction of a DO loop. -/
theorem lastCheck_allowed {i : Instr} {s t : State} (hi : forbiddenLast i = false)
    (htarget : isTarget s = false) (hlength : t.loop.start ≠ t.loop.stop)
    (hwrite : nearEndWrite s t = false) : lastCheck i s t = none := by
  simp [lastCheck, hi, htarget, hlength, hwrite]

/-- Settles O46: NOP's rule is the pc's alone, and NOP stands in neither list of forbidden instructions. -/
theorem nop_result : Obligations.nop_result :=
  fun s => ⟨rfl, preCheck_allowed rfl rfl s,
    fun _ htarget hlength hwrite => lastCheck_allowed rfl htarget hlength hwrite⟩

end Sys2Proof.Machine

/-! A step outside every loop, REPEAT by a literal and the runs of its target, DO, and the end of an iteration
of a DO loop (R360 to R381). -/

namespace Sys2Proof.Machine

/-! ## The end of a step (R374, R400, R432) -/

/-- The state in which a step ends whose DO rule left `v`: the request for early termination aged, DISICNT
counted down, the records kept. -/
def stepEnd (i : Instr) (s t v : State) : State :=
  record i s t (countDisi i s t { v with edt := ageEdt v.edt })

/-- The end of a step leaves the loop rules' pc, DO registers and CORCON. -/
theorem stepEnd_fields (i : Instr) (s t v : State) :
    (stepEnd i s t v).w = v.w ∧ (stepEnd i s t v).pc = v.pc ∧ (stepEnd i s t v).loop = v.loop
      ∧ (stepEnd i s t v).corcon = v.corcon ∧ (stepEnd i s t v).loopShadow = v.loopShadow
      ∧ (stepEnd i s t v).edt = ageEdt v.edt := by
  rw [stepEnd, countDisi_like]
  exact ⟨rfl, rfl, rfl, rfl, rfl, rfl⟩

/-- What the DO rule refuses is refused by the step. -/
theorem complete_refused {i : Instr} {s t : State} {r : Refusal} (hr : t.cur.reset = false)
    (h : doRule i s (repeatRule i s t) = .error r) : complete i s t = .error r := by
  simp [complete, hr, h]

/-- The floor of W15 is tested on what the instruction itself left in W15 (R432, D45). -/
theorem belowFloor_stepEnd {i : Instr} {s t v : State} (hw : v.w = t.w) :
    belowFloor t (stepEnd i s t v) = true
      ↔ (getW 15#4 t).toNat < Config.ramBase ∧ t.cur.stackEA = false := by
  obtain ⟨hend, -⟩ := stepEnd_fields i s t v
  have hget : getW 15#4 (stepEnd i s t v) = getW 15#4 t := by rw [getW, getW, hend, hw]
  simp [belowFloor, hget]

/-- A step whose DO rule answers ends there, where W15 is above the floor or an address was formed from
it. -/
theorem complete_ends {i : Instr} {s t v : State} (hr : t.cur.reset = false)
    (h : doRule i s (repeatRule i s t) = .ok v) (hw : v.w = t.w)
    (hfloor : Config.ramBase ≤ (getW 15#4 t).toNat ∨ t.cur.stackEA = true) :
    complete i s t = .ok (stepEnd i s t v) := by
  have hb : ¬ belowFloor t (stepEnd i s t v) = true := by
    rw [belowFloor_stepEnd hw]
    rintro ⟨hlow, hea⟩
    rcases hfloor with hhigh | hea'
    · omega
    · exact Bool.false_ne_true (hea.symm.trans hea')
  simp only [complete, hr, Bool.false_eq_true, if_false, h, ok_bind]
  exact if_neg hb

/-- Below the floor, with no address formed from W15, such a step is refused (R432, D45). -/
theorem complete_stackFloor {i : Instr} {s t v : State} (hr : t.cur.reset = false)
    (h : doRule i s (repeatRule i s t) = .ok v) (hw : v.w = t.w)
    (hlow : (getW 15#4 t).toNat < Config.ramBase) (hea : t.cur.stackEA = false) :
    complete i s t = .error .stackFloor := by
  have hb : belowFloor t (stepEnd i s t v) = true := (belowFloor_stepEnd hw).mpr ⟨hlow, hea⟩
  simp only [complete, hr, Bool.false_eq_true, if_false, h, ok_bind]
  exact if_pos hb

/-- Outside every REPEAT loop, the REPEAT rule clears `rpt_fresh` alone (R364). -/
theorem repeatRule_clear {i : Instr} {s : State} (t : State) (hi : isRepeat i = false)
    (hra : s.sr.ra = false) : repeatRule i s t = { t with rptFresh := false } := by
  rw [repeatRule_plain s t hi, if_pos hra]

/-- Settles O8: neither loop rule applies and nothing is counted, so the end of the step adds the
records. -/
theorem complete_plain : Obligations.complete_plain := by
  intro i s t hi hra hs ht hdisi hr
  have hclear := repeatRule_clear t hi hra
  have hdo := doRule_inactive (i := i) hs ht
  have hw : (repeatRule i s t).w = t.w := by rw [hclear]
  refine ⟨fun hfloor => ?_, fun hlow hea => complete_stackFloor hr hdo hw hlow hea⟩
  rw [complete_ends hr hdo hw hfloor, hclear, stepEnd, countDisi, if_pos (.inl hdisi)]
  rfl

/-! ## REPEAT by a literal (R362) -/

/-- Settles O49: the REPEAT rule of the step leaves what `startRepeat` has set. -/
theorem repeat_start : Obligations.repeat_start := by
  refine fun lit s => ⟨congrArg _ (startRepeat_eq lit s), fun u h => ?_⟩
  obtain ⟨t, ht, hu⟩ := runInstr_next h
  obtain ⟨hrcount, hsr, hfresh, hpc⟩ := complete_repeat _ _ _ _ rfl hu
  obtain rfl : startRepeat lit (resumeTarget s) = t := Host.Outcome.next.inj ht
  rw [hrcount, hsr, hfresh, hpc, startRepeat_eq]
  exact ⟨rfl, rfl, rfl, rfl⟩

/-! ## The runs of a REPEAT target (R360, R364) -/

/-- ADD of two registers into the first of them, in word mode. -/
def addInto (wd ws : WReg) : Instr := .addWbWsWd .word wd .direct wd .direct ws

/-- What the ADD leaves. -/
def addedInto (wd ws : WReg) (s : State) : State :=
  advance 1 (setW wd (getW wd s + getW ws s) (setAddFlags .word (getW wd s) (getW ws s) s))

theorem exec_addInto (wd ws : WReg) (s : State) :
    exec (addInto wd ws) s = .next (addedInto wd ws s) :=
  finish_ok (t := addedInto wd ws s) (trapNested_same rfl rfl)

/-- `c` additions of Ws to Wd lead from `s` to `t`: no other register and no memory has changed. -/
structure AddedTimes (wd ws : WReg) (c : Nat) (s t : State) : Prop where
  sum : getW wd t = getW wd s + BitVec.ofNat 16 c * getW ws s
  regs : SameWBut [wd] s t
  ram : t.ram = s.ram

theorem AddedTimes.trans {wd ws : WReg} {c d : Nat} {s t u : State} (hne : wd ≠ ws)
    (h : AddedTimes wd ws c s t) (h' : AddedTimes wd ws d t u) : AddedTimes wd ws (c + d) s u where
  sum := by
    have hws : getW ws t = getW ws s := h.regs ws (by simpa using hne.symm)
    rw [h'.sum, h.sum, hws, BitVec.ofNat_add, BitVec.add_mul, BitVec.add_assoc]
  regs n hn := (h'.regs n hn).trans (h.regs n hn)
  ram := h'.ram.trans h.ram

/-- A REPEAT loop is under way outside DO loops, W15 above the floor. -/
structure RepeatActive (s : State) : Prop where
  ra : s.sr.ra = true
  inactive : loopActive s = false
  floor : Config.ramBase ≤ (getW 15#4 s).toNat

/-- One run under a REPEAT: an addition, and then the count goes down or the loop ends (R364). -/
theorem runInstr_addInto {wd ws : WReg} {s : State} (hwd : wd ≠ 15#4) (h : RepeatActive s) :
    ∃ u, runInstr (addInto wd ws) (openBoundary s) = .next u ∧ AddedTimes wd ws 1 s u
      ∧ loopActive u = false
      ∧ (s.rcount = 0#14 → u.rcount = 0#14 ∧ u.sr.ra = false ∧ u.pc = ahead 1 s.pc)
      ∧ (s.rcount ≠ 0#14 → u.rcount = s.rcount - 1#14 ∧ u.sr.ra = true ∧ u.pc = s.pc) := by
  obtain ⟨hra, hs, hfloor⟩ := h
  let t := addedInto wd ws (running s)
  have hregs : SameWBut [wd] s t :=
    sameWBut_setW wd _ (setAddFlags .word (getW wd s) (getW ws s) (running s))
  have hfloor' : Config.ramBase ≤ (getW 15#4 t).toNat := by
    rw [hregs _ (by simpa using hwd.symm)]; exact hfloor
  obtain ⟨u, hu, hw, hram, hcorcon, -⟩ := complete_outside_loops (i := addInto wd ws)
    (s := running s) (t := t) rfl hs hs hfloor'
  have hget (n : WReg) : getW n u = getW n t := by rw [getW, getW, hw]
  obtain ⟨-, hend, hmore⟩ := complete_iteration (s := running s) (t := t) rfl hra hs hs rfl hu
  refine ⟨u, runInstr_of_complete (preCheck_allowed rfl rfl _) (exec_addInto wd ws _) hu,
    ⟨?_, fun n hn => (hget n).trans (hregs n hn), hram⟩, ?_, hend, fun h0 => ?_⟩
  · rw [hget, BitVec.one_mul]
    exact getW_setW_same hwd ..
  · rw [loopActive, hcorcon]; exact hs
  · obtain ⟨hcount, hra', hpc⟩ := hmore h0
    exact ⟨hcount, hra'.trans hra, hpc⟩

/-- The runs that RCOUNT counts, and the last one. -/
theorem runTimes_addInto {wd ws : WReg} (hne : wd ≠ ws) (hwd : wd ≠ 15#4) (n : Nat) {s : State}
    (h : RepeatActive s) (hn : s.rcount.toNat = n) :
    ∃ t, runTimes (addInto wd ws) (n + 1) s = some t ∧ AddedTimes wd ws (n + 1) s t
      ∧ t.rcount = 0#14 ∧ t.sr.ra = false ∧ t.pc = ahead 1 s.pc := by
  induction n generalizing s with
  | zero =>
    obtain ⟨u, hrun, hadd, -, hend, -⟩ := runInstr_addInto (ws := ws) hwd h
    exact ⟨u, runTimes_succ hrun 0, hadd, hend (BitVec.eq_of_toNat_eq hn)⟩
  | succ n ih =>
    obtain ⟨u, hrun, hadd, hu, -, hmore⟩ := runInstr_addInto (ws := ws) hwd h
    obtain ⟨hcount, hra, hpc⟩ := hmore (by intro e; simp [e] at hn)
    have hfloor : Config.ramBase ≤ (getW 15#4 u).toNat := by
      rw [hadd.regs _ (by simpa using hwd.symm)]; exact h.floor
    obtain ⟨t, ht, hadds, hcount', hra', hpc'⟩ := ih ⟨hra, hu, hfloor⟩ (by rw [hcount]; bv_omega)
    have hall := hadd.trans hne hadds
    rw [Nat.add_comm 1] at hall
    exact ⟨t, (runTimes_succ hrun _).trans ht, hall, hcount', hra', hpc'.trans (by rw [hpc])⟩

/-- Settles O51, by induction on the count. -/
theorem repeat_runs : Obligations.repeat_runs := by
  intro wd ws s hne hwd hra hs hfloor
  obtain ⟨t, ht, hadd, hcount, hra', hpc⟩ := runTimes_addInto hne hwd _ ⟨hra, hs, hfloor⟩ rfl
  exact ⟨t, ht, hadd.sum, hcount, hra', hpc, hadd.regs, fun b => by rw [hadd.ram]⟩

/-! ## DO (R372, R373, R376) -/

/-- The lengths that are not usable, as integers (R382). -/
theorem doLengthWf_iff (n : BitVec 16) :
    doLengthWf n = false ↔ n.toInt = -2 ∨ n.toInt = -1 ∨ n.toInt = 0 := by
  have h (m : BitVec 16) : n = m ↔ n.toInt = m.toInt := BitVec.toInt_inj.symm
  have h0 : (0#16).toInt = 0 := rfl
  have h1 : (0xFFFF#16).toInt = -1 := rfl
  have h2 : (0xFFFE#16).toInt = -2 := rfl
  simp only [doLengthWf, Bool.and_eq_false_iff, bne_eq_false_iff_eq, h, h0, h1, h2]
  omega

/-- The end address, the length counting instruction words of two addresses each (R372, D34). -/
theorem loopEnd_eq (start : PAddr) (n : BitVec 16) :
    loopEnd start n = BitVec.ofInt 23 (start.toNat + 2 * n.toInt) := by
  rw [loopEnd, signExtend_double, BitVec.ofInt_add, BitVec.ofInt_natCast, BitVec.ofNat_toNat,
    BitVec.setWidth_eq]

/-- An address below bit 22 is held in 22 bits. -/
theorem zero_append_setWidth {a : PAddr} (h : a.getLsbD 22 = false) : 0#1 ++ a.setWidth 22 = a := by
  have hlow : a.toNat < 2 ^ 22 := by
    have hmsb : a.msb = false := (BitVec.msb_eq_getLsbD_last a).trans h
    have := BitVec.msb_eq_false_iff_two_mul_lt.mp hmsb
    omega
  apply BitVec.eq_of_toNat_eq
  rw [BitVec.toNat_append, BitVec.toNat_setWidth, Nat.mod_eq_of_lt hlow]
  simp

/-- The shadows take the outer loop's registers, or beyond two loops may keep theirs (R376, log entry
47). -/
theorem saveLoop_spec (s : State) :
    ∃ r k, saveLoop s = { s with loopShadow := r, draws := k }
      ∧ (r = s.loop ∨ (2 ≤ s.corcon.dl.toNat ∧ r = s.loopShadow)) := by
  unfold saveLoop
  split
  · exact ⟨s.loop, s.draws, rfl, .inl rfl⟩
  · next h =>
    refine ⟨_, _, rfl, ?_⟩
    cases Config.freeBit s.draws with
    | true => exact .inl rfl
    | false => exact .inr ⟨by omega, rfl⟩

/-- Settles O52: the refusals in the order in which they are tested, and then the loop that is started. -/
theorem do_start : Obligations.do_start := by
  intro i c n s hi start stop
  have hstop : loopEnd start n = stop := loopEnd_eq start n
  have hexec : exec i s = finish s (startDo c n s) := by
    rcases hi with rfl | ⟨wn, rfl, rfl⟩ <;> rfl
  have hstart : ahead 2 s.pc = start := rfl
  rw [hexec, ← doLengthWf_iff, startDo, hstart, hstop]
  refine ⟨fun hlen => by rw [if_pos hlen, finish_refused], fun hlen => ?_⟩
  rw [if_neg hlen]
  refine ⟨fun haddr => by rw [if_pos (Bool.or_eq_true_iff.mpr haddr), finish_refused],
    fun h1 h2 => ?_⟩
  have haddr : ¬ (start.getLsbD 22 || stop.getLsbD 22) = true := by
    rw [h1, h2]; exact Bool.false_ne_true
  rw [if_neg haddr]
  refine ⟨fun hdl => by rw [if_pos hdl, finish_refused], fun hdl => ?_⟩
  obtain ⟨r, k, hsave, hr⟩ := saveLoop_spec s
  rw [if_neg hdl, hsave]
  refine ⟨_, finish_ok (trapNested_same rfl rfl), ?_, zero_append_setWidth h1,
    zero_append_setWidth h2, rfl, ?_, hr⟩
  · rw [← hstart]; rfl
  · have hlevel : s.corcon.dl + 1#3 ≠ 0#3 := by intro e; apply hdl; bv_omega
    simpa [loopActive] using hlevel

/-! ## The end of a DO iteration (R374 to R381) -/

/-- What is refused at the end of the loop that the instruction began in is refused by the DO rule. -/
theorem doRule_refused {i : Instr} {s t : State} {r : Refusal} (hend : atLoopEnd s s.pc = true)
    (hcheck : lastCheck i s t = some r) : doRule i s t = .error r := by
  simp only [doRule, hend, Bool.true_or, if_true, hcheck]

/-- Otherwise, at the end of the loop that the instruction left, the loop is continued or ended. -/
theorem doRule_decides {i : Instr} {s t : State} (hend : atLoopEnd t s.pc = true)
    (hcheck : lastCheck i s t = none) : doRule i s t = loopDecision s.pc t := by
  simp only [doRule, hend, Bool.or_true, if_true, hcheck]

theorem didBefore_iff (p : Access → Bool) (k : Nat) (s : State) :
    didBefore p k s = true ↔ ∃ e, s.hist[k]? = some e ∧ p e.access = true := by
  unfold didBefore
  cases s.hist[k]? <;> simp

theorem nearEndWrite_iff (s t : State) : nearEndWrite s t = true ↔ t.cur.wroteLoop = true
    ∨ didBefore (fun a => a.wroteLoop) 0 s = true ∨ didBefore (fun a => a.wroteLoop) 1 s = true
    ∨ didBefore (fun a => a.wrotePriority) 1 s = true
    ∨ didBefore (fun a => a.wrotePriority) 2 s = true := by
  simp only [nearEndWrite, Bool.or_eq_true, or_assoc]

/-- With iterations left and no ripe request, the loop goes on at its start (R374, D19). -/
theorem loopDecision_again {a : PAddr} {t : State} (hcount : t.loop.count ≠ 0#14)
    (hedt : t.edt ≠ .ripe) : loopDecision a t = .ok { t with
      loop := { t.loop with count := t.loop.count - 1#14 }, pc := 0#1 ++ t.loop.start } :=
  if_neg (not_or.mpr ⟨hcount, hedt⟩)

/-- An outermost loop, or one inside two others or more, ends with DL one less (R375, log entry 21). -/
theorem endLoop_drops {a : PAddr} {t : State} (hdl : t.corcon.dl ≠ 2#3) :
    ∃ c e k, endLoop a t = .ok { t with
        loop := { t.loop with count := c }, corcon := { t.corcon with dl := t.corcon.dl - 1#3 }
        edt := e, draws := k }
      ∧ (c = 0#14 ∨ c = 0x3FFF#14) ∧ (t.edt = .ripe → e = .none) := by
  rw [endLoop, if_neg hdl]
  refine ⟨_, _, _, rfl, ?_, fun hripe => if_pos hripe⟩
  split
  · exact .inr rfl
  · exact .inl rfl

/-- The inner one of two loops ends with the outer one's registers back (R375, R376). -/
theorem endLoop_returns {a : PAddr} {t : State} (hdl : t.corcon.dl = 2#3)
    (ha : a ≠ 0#1 ++ t.loopShadow.stop) : ∃ e, endLoop a t = .ok { t with
        loop := t.loopShadow, corcon := { t.corcon with dl := 1#3 }, edt := e }
      ∧ (t.edt = .ripe → e = .none) := by
  rw [endLoop, if_pos hdl, if_neg ha, hdl]
  exact ⟨_, rfl, fun hripe => if_pos hripe⟩

theorem endLoop_sharedEnd {a : PAddr} {t : State} (hdl : t.corcon.dl = 2#3)
    (ha : a = 0#1 ++ t.loopShadow.stop) : endLoop a t = .error .doSharedEnd := by
  rw [endLoop, if_pos hdl, if_pos ha]

/-- Two 22-bit addresses are one when they are one as addresses of the pc. -/
theorem zero_append_inj {x y : BitVec 22} : (0#1 ++ x : PAddr) = 0#1 ++ y ↔ x = y := by
  refine ⟨fun h => BitVec.eq_of_toNat_eq ?_, fun h => by rw [h]⟩
  have h' := congrArg BitVec.toNat h
  rwa [BitVec.toNat_append, BitVec.toNat_append, BitVec.toNat_ofNat, Nat.zero_mod, Nat.zero_shiftLeft,
    Nat.zero_or, Nat.zero_or] at h'

/-- An instruction that R380 allows to end a DO loop is neither a REPEAT nor the target of one, so the REPEAT
rule clears `rpt_fresh` alone (R364). -/
theorem repeatRule_last {i : Instr} {s : State} (h : ¬ (forbiddenLast i || isTarget s) = true)
    (t : State) : repeatRule i s t = { t with rptFresh := false } := by
  simp only [forbiddenLast, isTarget, Bool.or_eq_true, not_or, Bool.not_eq_true] at h
  obtain ⟨⟨⟨⟨-, hrepeat⟩, -⟩, -⟩, hra, -⟩ := h
  exact repeatRule_clear t hrepeat hra

theorem lastCheck_length {i : Instr} {s t : State} (hok : ¬ (forbiddenLast i || isTarget s) = true)
    (hlen : t.loop.start = t.loop.stop) : lastCheck i s t = some .doLength := by
  rw [lastCheck, if_neg hok, if_pos hlen]

theorem lastCheck_hazard {i : Instr} {s t : State} (hok : ¬ (forbiddenLast i || isTarget s) = true)
    (hlen : t.loop.start ≠ t.loop.stop) (hwrite : nearEndWrite s t = true) :
    lastCheck i s t = some .doHazard := by
  rw [lastCheck, if_neg hok, if_neg hlen, if_pos hwrite]

/-- An instruction at DOEND that began in `s` has left DL and the loop registers as they were, in `t`. -/
structure AtDoend (s t : State) : Prop where
  active : loopActive s = true
  level : t.corcon.dl = s.corcon.dl
  loop : t.loop = s.loop
  pc : s.pc = 0#1 ++ s.loop.stop
  reset : t.cur.reset = false

section Doend

variable {i : Instr} {s t : State}

theorem AtDoend.ends (h : AtDoend s t) : atLoopEnd s s.pc = true := by
  simp [atLoopEnd, h.active, ← h.pc]

theorem AtDoend.lengthOne (h : AtDoend s t) :
    t.loop.start = t.loop.stop ↔ s.loop.start = s.loop.stop := by rw [h.loop]

theorem AtDoend.refused {r : Refusal} (h : AtDoend s t)
    (hcheck : lastCheck i s (repeatRule i s t) = some r) : complete i s t = .error r :=
  complete_refused h.reset (doRule_refused h.ends hcheck)

/-- Where nothing is refused, the loop goes on or ends as the instruction has left it. -/
theorem AtDoend.decides (h : AtDoend s t) (hok : ¬ (forbiddenLast i || isTarget s) = true)
    (hlen : s.loop.start ≠ s.loop.stop) (hwrite : ¬ nearEndWrite s t = true) :
    doRule i s (repeatRule i s t) = loopDecision s.pc { t with rptFresh := false } := by
  obtain ⟨hlast, htarget⟩ := not_or.mp (mt Bool.or_eq_true_iff.mpr hok)
  have hends : atLoopEnd { t with rptFresh := false } s.pc = true := by
    have hends := h.ends
    rwa [atLoopEnd, loopActive, ← h.level, ← h.loop] at hends
  rw [repeatRule_last hok]
  exact doRule_decides hends (lastCheck_allowed (by simpa using hlast) (by simpa using htarget)
    (mt h.lengthOne.mp hlen) (Bool.eq_false_of_not_eq_true hwrite))

end Doend

/-- Settles O53: what `lastCheck` refuses, in its order, and then the ways in which `loopDecision` ends. -/
theorem do_end : Obligations.do_end := by
  intro i s t hs hdl hloop hpc hr mayNotEnd did written
  have h : AtDoend s t := ⟨hs, hdl, hloop, hpc, hr⟩
  have hforbidden : mayNotEnd ↔ (forbiddenLast i || isTarget s) = true := by
    rw [Bool.or_eq_true, isTarget, Bool.or_eq_true, or_comm (a := forbiddenLast i = true), or_assoc]
    refine or_congr_right (or_congr_right ?_)
    cases hf : forbiddenLast i with
    | true => exact iff_of_true (by cases i <;> cases hf <;> trivial) rfl
    | false => exact iff_of_false (by cases i <;> cases hf <;> exact id) Bool.false_ne_true
  have hwritten : written ↔ nearEndWrite s t = true := by
    simp only [nearEndWrite_iff, didBefore_iff]; rfl
  rw [hforbidden, hwritten]
  refine ⟨fun hbad => h.refused (if_pos hbad), fun hok hlen => h.refused ?length,
    fun hok hlen hwrite => h.refused ?hazard, fun hok hlen hwrite hfloor => ?_⟩
  case length => rw [repeatRule_last hok]; exact lastCheck_length hok (h.lengthOne.mpr hlen)
  case hazard =>
    rw [repeatRule_last hok]
    exact lastCheck_hazard hok (mt h.lengthOne.mp hlen) hwrite
  let t' := { t with rptFresh := false }
  have hdo := h.decides hok hlen hwrite
  have hcomplete {v : State} (hv : loopDecision s.pc t' = .ok v) (hw : v.w = t.w) :
      complete i s t = .ok (stepEnd i s t v) := complete_ends hr (hdo.trans hv) hw hfloor
  refine ⟨fun hcount hedt => ?again, fun hlast hdl2 => ?drops, fun hlast hdl2 =>
    ⟨fun hstop => ?returns, fun hstop => complete_refused hr (hdo.trans ?shared)⟩⟩
  case again =>
    have hv := loopDecision_again (a := s.pc) (t := t') hcount hedt
    obtain ⟨-, hpc', hloop', hcorcon, hshadow, hage⟩ := stepEnd_fields i s t _
    refine ⟨_, hcomplete hv rfl, hpc'.trans ?_, hloop'.trans ?_, hcorcon, hshadow, hage⟩ <;>
      rw [← hloop]
  case drops =>
    obtain ⟨c, e, k, hv, hc, he⟩ := endLoop_drops (a := s.pc) (t := t') (ne_of_eq_of_ne hdl hdl2)
    obtain ⟨-, hpc', hloop', hcorcon, -, hage⟩ := stepEnd_fields i s t _
    refine ⟨_, hcomplete ((if_pos hlast).trans hv) rfl, hpc', hcorcon, ?_⟩
    rw [hloop', hage, ← hloop]
    exact ⟨rfl, rfl, hc, fun hripe => congrArg ageEdt (he hripe)⟩
  case returns =>
    obtain ⟨e, hv, he⟩ := endLoop_returns (a := s.pc) (t := t') (hdl.trans hdl2)
      (by rw [hpc, Ne, zero_append_inj]; exact hstop.symm)
    obtain ⟨-, hpc', hloop', hcorcon, -, hage⟩ := stepEnd_fields i s t _
    exact ⟨_, hcomplete ((if_pos hlast).trans hv) rfl, hpc', hcorcon, hloop',
      fun hripe => hage.trans (congrArg ageEdt (he hripe))⟩
  case shared =>
    refine (if_pos hlast).trans (endLoop_sharedEnd (hdl.trans hdl2) ?_)
    rw [hpc, zero_append_inj]; exact hstop.symm

end Sys2Proof.Machine

/-! What is taken at a boundary, and the system and table instructions (R400 to R405, R427, R448, R478). -/

namespace Sys2Proof.Machine

/-! ## The pending traps (R427) -/

section Boundary

variable {s t : State} {e : Exception} {b : Boundary} {q : Irq}

theorem pendingTrap_eq_none : pendingTrap s = none ↔ s.stackPending = false ∧ s.arithPending = false := by
  unfold pendingTrap
  cases s.stackPending with
  | false => cases s.arithPending <;> simp
  | true =>
    cases s.arithPending with
    | false => simp
    | true => simp only [Bool.and_self, if_true]; split_ifs <;> simp

/-- The trap taken is pending, and the other one, where it is pending too, is not of a higher level. -/
theorem pendingTrap_highest (h : pendingTrap s = some (e, t)) :
    (e = .stackError ∧ s.stackPending = true ∧ (s.arithPending = true → arithLevel s ≤ stackLevel s))
      ∨ (e = .arithmeticError ∧ s.arithPending = true
        ∧ (s.stackPending = true → stackLevel s ≤ arithLevel s)) := by
  unfold pendingTrap at h
  split at h
  case isTrue hboth =>
    obtain ⟨hs, ha⟩ := Bool.and_eq_true_iff.mp hboth
    split at h
    case isTrue hlt => cases h; exact .inl ⟨rfl, hs, fun _ => hlt.le⟩
    case isFalse hge =>
      split at h
      case isTrue hlt => cases h; exact .inr ⟨rfl, ha, fun _ => hlt.le⟩
      case isFalse hle =>
        cases h
        cases Config.freeBit s.draws with
        | true => exact .inl ⟨rfl, hs, fun _ => not_lt.mp hle⟩
        | false => exact .inr ⟨rfl, ha, fun _ => not_lt.mp hge⟩
  case isFalse hboth =>
    split at h
    case isTrue hs =>
      cases h
      exact .inl ⟨rfl, hs, fun ha => absurd (Bool.and_eq_true_iff.mpr ⟨hs, ha⟩) hboth⟩
    case isFalse hs =>
      split at h
      case isTrue ha => cases h; exact .inr ⟨rfl, ha, fun h => absurd h hs⟩
      case isFalse => cases h

/-! ## The interrupt requests (R400, R427) -/

theorem accepts_iff : accepts s q = true ↔
    cpuLevel s < q.level.toNat ∧ (s.disicnt = 0#14 ∨ q.level = 7#3) := by
  have hseven : q.level = 7#3 ↔ ¬ q.level.toNat ≤ 6 := by bv_omega
  simp [accepts, hseven]

/-- A request is held off by the CPU level, or by DISI where its level is below 7. -/
theorem accepts_eq_false : accepts s q = false ↔
    q.level.toNat ≤ cpuLevel s ∨ (s.disicnt ≠ 0#14 ∧ q.level.toNat ≤ 6) := by
  simp [accepts, imp_iff_not_or]

theorem le_topLevel {qs : List Irq} (h : q ∈ qs) : q.level.toNat ≤ topLevel qs := by
  induction qs with
  | nil => cases h
  | cons r qs ih =>
    rcases List.mem_cons.mp h with rfl | h
    · exact le_max_left ..
    · exact (ih h).trans (le_max_right ..)

/-- The highest level is that of one of the requests. -/
theorem exists_topLevel {qs : List Irq} (h : qs ≠ []) : ∃ q ∈ qs, q.level.toNat = topLevel qs := by
  induction qs with
  | nil => exact absurd rfl h
  | cons r qs ih =>
    rcases le_total (topLevel qs) r.level.toNat with hle | hle
    · exact ⟨r, List.mem_cons_self, (max_eq_left hle).symm⟩
    · by_cases hqs : qs = []
      · subst hqs; exact ⟨r, List.mem_cons_self, (max_eq_left (Nat.zero_le _)).symm⟩
      · obtain ⟨q, hq, htop⟩ := ih hqs
        exact ⟨q, List.mem_cons_of_mem _ hq, htop.trans (max_eq_right hle).symm⟩

/-- A contender is an accepted request that no accepted request exceeds. -/
theorem mem_contenders (h : q ∈ contenders b s) : q ∈ b.irqs ∧ accepts s q = true
    ∧ ∀ q' ∈ b.irqs, accepts s q' = true → q'.level.toNat ≤ q.level.toNat := by
  simp only [contenders, List.mem_filter, beq_iff_eq] at h
  obtain ⟨⟨hq, haccepts⟩, htop⟩ := h
  exact ⟨hq, haccepts, fun q' hq' h' => (le_topLevel (List.mem_filter.mpr ⟨hq', h'⟩)).trans htop.ge⟩

theorem contenders_eq_nil : contenders b s = [] ↔ ∀ q ∈ b.irqs, accepts s q = false := by
  constructor
  · intro h q hq
    by_contra haccepts
    obtain ⟨r, hr, htop⟩ := exists_topLevel
      (List.ne_nil_of_mem (List.mem_filter.mpr ⟨hq, Bool.eq_true_of_not_eq_false haccepts⟩))
    have hmem : r ∈ contenders b s := List.mem_filter.mpr ⟨hr, beq_iff_eq.mpr htop⟩
    exact List.not_mem_nil (h ▸ hmem)
  · intro h
    exact List.eq_nil_iff_forall_not_mem.mpr fun q hq =>
      have ⟨hirq, haccepts, _⟩ := mem_contenders hq
      Bool.eq_false_iff.mp (h q hirq) haccepts

theorem acceptedIrq_eq_none : acceptedIrq b s = none ↔ contenders b s = [] := by
  unfold acceptedIrq
  split
  next hnil => exact iff_of_true rfl hnil
  next hone => exact iff_of_false nofun (by simp [hone])
  next hmany => exact iff_of_false nofun (by simp [hmany])

/-- The interrupt taken is one of the contenders, whatever the free choice among them. -/
theorem acceptedIrq_contender (h : acceptedIrq b s = some (e, t)) :
    ∃ q ∈ contenders b s, e = .interrupt q := by
  unfold acceptedIrq at h
  split at h
  next => cases h
  next q hq => cases h; exact ⟨q, hq ▸ List.mem_singleton_self q, rfl⟩
  next q r qs hqs =>
    have hlt : Config.freeNat s.draws % (qs.length + 2) < (q :: r :: qs).length :=
      Nat.mod_lt _ (Nat.succ_pos _)
    cases h
    refine ⟨_, ?_, rfl⟩
    rw [hqs, List.getD_eq_getElem _ _ hlt]
    exact List.getElem_mem hlt

/-! ## The choice at a boundary (R427, R448) -/

theorem acceptedException_eq_none : acceptedException b s = none ↔
    pendingTrap s = none ∧ acceptedIrq b s = none := by
  unfold acceptedException
  cases pendingTrap s <;> simp

theorem acceptedException_of_trap (hp : s.stackPending = true ∨ s.arithPending = true) :
    acceptedException b s = pendingTrap s := by
  have hsome : pendingTrap s ≠ none := by
    rw [Ne, pendingTrap_eq_none]
    rcases hp with h | h <;> simp [h]
  obtain ⟨x, hx⟩ := Option.ne_none_iff_exists'.mp hsome
  simp [acceptedException, hx]

theorem acceptedException_of_noTrap (hs : s.stackPending = false) (ha : s.arithPending = false) :
    acceptedException b s = acceptedIrq b s := by
  simp [acceptedException, pendingTrap_eq_none.mpr ⟨hs, ha⟩]

theorem step_of_reset (hp : s.power = .run) (hr : (presented s).reset = true) :
    step s = .next (deviceReset (openBoundary s)) := by
  simp [step, hp, hr]

theorem step_of_accepted (hp : s.power = .run) (hr : (presented s).reset = false)
    (he : acceptedException (presented s) (openBoundary s) = some (e, t)) :
    step s = finish t (takeException e t) := by
  simp [step, hp, hr, he]

end Boundary

/-- Settles O59: opening the boundary leaves what the choice reads, so a pending trap is `pendingTrap`'s and an
interrupt is one of the contenders. -/
theorem exception_choice : Obligations.exception_choice := by
  refine ⟨fun s hp hr => step_of_reset hp hr, fun s u e hp hr he =>
    ⟨step_of_accepted hp hr he, acceptedException_like he, fun hpending => ?trap, fun hs ha => ?irq⟩,
    fun s => ?none⟩
  case trap =>
    have htrap := (acceptedException_of_trap (s := openBoundary s) hpending).symm.trans he
    exact pendingTrap_highest (s := openBoundary s) htrap
  case irq =>
    have hirq := (acceptedException_of_noTrap (s := openBoundary s) hs ha).symm.trans he
    obtain ⟨q, hq, rfl⟩ := acceptedIrq_contender hirq
    obtain ⟨hmem, haccepts, htop⟩ := mem_contenders hq
    obtain ⟨hlevel, hdisi⟩ := accepts_iff.mp haccepts
    exact ⟨q, hmem, rfl, hlevel, hdisi.resolve_left,
      fun q' hq' hlevel' hdisi' => htop q' hq' (accepts_iff.mpr ⟨hlevel', hdisi'⟩)⟩
  case none =>
    rw [acceptedException_eq_none, pendingTrap_eq_none, acceptedIrq_eq_none, contenders_eq_nil, and_assoc]
    exact and_congr_right' (and_congr_right' (forall₂_congr fun _ _ => accepts_eq_false (s := openBoundary s)))

/-! ## DISI, PWRSV and the table instructions (R400 to R405, R478) -/

theorem exec_disi (lit : BitVec 14) (s : State) : exec (.disi lit) s =
    .next (advance 1 (note (fun a => { a with wroteDisi := true }) { s with disicnt := lit })) := rfl

theorem exec_pwrsv (lit : BitVec 1) (s : State) : exec (.pwrsv lit) s =
    .next (advance 1 { s with power := if lit = 0#1 then .sleep else .idle }) := rfl

theorem step_halted {s : State} (h : s.power ≠ .run) : step s = .fault .halted := if_pos h

/-- Settles O54: each of the two writes its register and moves the pc on, and no step leaves a power-saving
state. -/
theorem system_result : Obligations.system_result := by
  refine ⟨fun lit s => ⟨_, exec_disi lit s, rfl, rfl⟩,
    fun lit s => ⟨_, exec_pwrsv lit s, rfl, ?sleep, ?idle⟩, fun _ => step_halted⟩
  case sleep => rintro rfl; rfl
  case idle => rintro rfl; rfl

/-- Settles O56: the rule of each table instruction is its refusal, which reads neither the operands nor the
state. -/
theorem table_refused : Obligations.table_refused :=
  fun _ _ _ _ _ _ => ⟨rfl, rfl, rfl, rfl⟩

end Sys2Proof.Machine

/-! Taking an exception, its pushes in the stack's bounds or not (R431 to R435, R450). -/

namespace Sys2Proof.Machine

/-! ## A push to storage, checked or not (R178, R431 to R433, R435) -/

/-- What a push needs to store in RAM, whether it raises a trap or not. -/
def PushStores (s : State) : Prop :=
  moduloOn s = false ∧ (getW 15#4 s).getLsbD 0 = false
    ∧ regionOf .word (getW 15#4 s) s = .storage

/-- A push for `role` raises StackError: StackError's own entry checks no push (R435). -/
def pushRaises (role : Role) (s : State) : Bool := role != .entry && pushTraps s

theorem pushNext_of_storage {s : State} (hr : regionOf .word (getW 15#4 s) s = .storage) (v : Word) :
    pushNext v s = pushed v s := by
  rw [pushNext_written, written, regionOf_moved, hr]; rfl

theorem push_stores {role : Role} {s : State} (h : PushStores s) (hrole : role ≠ .source) (v : Word) :
    ∃ c, push role v s = .ok (((pushed v s).orStack (pushRaises role s)).at' c s.draws) := by
  obtain ⟨hm, heven, hr⟩ := h
  cases role with
  | source => exact absurd rfl hrole
  | entry =>
    have hunraised : pushRaises .entry s = false := rfl
    rw [hunraised, orStack_false]
    exact push_storage hm heven hr (fun hne => absurd rfl hne) (by simp [wraps]) hrole
  | dest =>
    have hmis : misaligned .word (getW 15#4 s) = false := heven
    have hmade : pushMade s = true := by simp [pushMade, hm, writable, hmis, hr]
    obtain ⟨c, hpush⟩ := push_made (v := v) hmade
    rw [pushNext_of_storage hr] at hpush
    exact ⟨c, hpush⟩

/-- A push after one that may have raised StackError. -/
theorem push_stores_next {role : Role} {u : State} (h : PushStores u) (hrole : role ≠ .source) (v : Word)
    (b : Bool) (c : Access) (k : Nat) : ∃ c', push role v ((u.orStack b).at' c k)
      = .ok (((pushed v u).orStack (b || pushRaises role u)).at' c' k) := by
  have hstores : PushStores ((u.orStack b).at' c k) := h
  obtain ⟨c', hpush⟩ := push_stores hstores hrole v
  rw [← orStack_orStack]
  exact ⟨c', hpush⟩

theorem getW_pushed_of_even {s : State} (heven : (getW 15#4 s).getLsbD 0 = false) (v : Word) (n : WReg) :
    getW n (pushed v s) = if n = 15#4 then getW 15#4 s + 2#16 else getW n s := by
  change getW n (putW 15#4 (getW 15#4 s + 2#16) s) = _
  rw [getW_putW, fixedW_even (even_add heven (by decide))]

/-! ## The two pushes of an entry -/

/-- Two pushes, one after the other, that store in RAM. -/
structure PushTwoStores (s : State) : Prop where
  first : PushStores s
  second : regionOf .word (getW 15#4 s + 2#16) s = .storage

theorem entryStorage_iff (s : State) : entryStorage s = true ↔ PushTwoStores s := by
  simp only [entryStorage, Bool.and_eq_true, Bool.not_eq_true', beq_iff_eq]
  exact ⟨fun ⟨⟨⟨hm, he⟩, h1⟩, h2⟩ => ⟨⟨hm, he, h1⟩, h2⟩,
    fun ⟨⟨hm, he, h1⟩, h2⟩ => ⟨⟨⟨hm, he⟩, h1⟩, h2⟩⟩

section Stores
variable {s : State} (h : PushTwoStores s)
include h

theorem PushTwoStores.even : (getW 15#4 s).getLsbD 0 = false := h.first.2.1

theorem PushTwoStores.entryStart (e : Exception) : PushTwoStores (entryStart e s) := by
  rw [entryStart_eq]; exact ⟨h.first, h.second⟩

theorem PushTwoStores.stack_pushed (v : Word) : getW 15#4 (pushed v s) = getW 15#4 s + 2#16 := by
  rw [getW_pushed_of_even h.even, if_pos rfl]

theorem PushTwoStores.after_first (v : Word) : PushStores (pushed v s) := by
  obtain ⟨⟨hm, heven, -⟩, hr⟩ := h
  refine ⟨hm, ?_, ?_⟩ <;> rw [getW_pushed_of_even heven, if_pos rfl]
  · exact even_add heven (by decide)
  · exact hr

/-- Two words pushed stand on the stack in any state with their registers and memory. -/
theorem PushTwoStores.stacked {lo hi : Word} {t : State} (hw : t.w = (pushed hi (pushed lo s)).w)
    (hram : t.ram = (pushed hi (pushed lo s)).ram) (hpsv : t.corcon.psv = s.corcon.psv)
    (hdev : t.dev = s.dev) : StackedTwo lo hi s t := by
  have hpushed := h.stack_pushed lo
  refine stackedTwo_intro h.even h.first.2.2 h.second ?ram (fun a => ?region) fun n => ?regs
  case ram => rw [hram, pushed, hpushed]; rfl
  case region => simp only [regionOf, hpsv, hdev]
  case regs =>
    rw [getW, hw, ← getW, getW_pushed_of_even (h.after_first lo).2.1, hpushed, BitVec.add_assoc,
      getW_pushed_of_even h.even]
    split <;> rfl

/-- W15 can wrap only at the second push: the word after the last one is a core register's. -/
theorem PushTwoStores.below_top : (getW 15#4 s).toNat < 0xFFFE := by
  have heven := even_toNat h.even
  have hsecond := ((regionOf_storage_iff _ _ s).mp h.second).1
  bv_omega

/-- The two pushes trap where one of their addresses is out of bounds, or where W15 wraps. -/
theorem PushTwoStores.traps (v : Word) : (pushTraps s || pushTraps (pushed v s))
    = (stackBad (getW 15#4 s) s || stackBad (getW 15#4 s + 2#16) s
      || (s.splimEn && decide (0xFFFC ≤ (getW 15#4 s).toNat))) := by
  have hbelow := h.below_top
  have hbad : stackBad (getW 15#4 s + 2#16) (pushed v s) = stackBad (getW 15#4 s + 2#16) s := rfl
  have hen : (pushed v s).splimEn = s.splimEn := rfl
  have hfirst : ¬ 0xFFFE ≤ (getW 15#4 s).toNat := by omega
  have hlast : 0xFFFE ≤ (getW 15#4 s + 2#16).toNat ↔ 0xFFFC ≤ (getW 15#4 s).toNat := by bv_omega
  simp only [pushTraps, h.stack_pushed v, hbad, hen, hfirst, hlast, decide_false, Bool.and_false,
    Bool.or_false, Bool.or_assoc]

end Stores

/-! ## The entry (R450) -/

/-- The role of the pushes of an entry (R435). -/
def entryRole (e : Exception) : Role := if e = .stackError then .entry else .dest

theorem entryRole_ne_source (e : Exception) : entryRole e ≠ .source := by
  unfold entryRole; split <;> nofun

theorem entryTraps_eq {s : State} (h : PushTwoStores s) (e : Exception) (v : Word) :
    (pushRaises (entryRole e) (entryStart e s)
      || pushRaises (entryRole e) (pushed v (entryStart e s))) = entryTraps e s := by
  have htraps := (h.entryStart e).traps v
  by_cases he : e = .stackError
  · simp [entryRole, pushRaises, entryTraps, he]
  · have hrole : entryRole e = .dest := if_neg he
    have hchecked (u : State) : pushRaises .dest u = pushTraps u := rfl
    have hstart : entryTraps e (entryStart e s) = entryTraps e s := by rw [entryStart_eq]; rfl
    rw [hrole, hchecked, hchecked, htraps, ← hstart, entryTraps, bne_iff_ne.mpr he, Bool.true_and]

/-- The state an entry's two pushes leave, with the record `c` of them. -/
def entryPushed (e : Exception) (s : State) (c : Access) : State :=
  ((pushed (statusWord s) (pushed (s.pc.extractLsb' 0 16) (entryStart e s))).orStack
    (entryTraps e s)).at' c s.draws

/-- An entry whose pushes go to storage makes them and ends, StackError pending where they raise it. -/
theorem takeException_stored {s : State} (h : PushTwoStores s) (e : Exception) :
    ∃ c, takeException e s = .ok (entryEnd e (entryPushed e s c)) := by
  have hstart := h.entryStart e
  have hdraws : (entryStart e s).draws = s.draws := by rw [entryStart_eq]
  have hstatus (b : Bool) (c : Access) : statusWord (setRa s.sr.ra
      (((pushed (s.pc.extractLsb' 0 16) (entryStart e s)).orStack b).at' c s.draws)) = statusWord s := by
    rw [entryStart_eq]; rfl
  obtain ⟨c1, hlo⟩ := push_stores hstart.first (entryRole_ne_source e) (s.pc.extractLsb' 0 16)
  obtain ⟨c2, hhi⟩ := push_stores_next (hstart.after_first (s.pc.extractLsb' 0 16))
    (entryRole_ne_source e) (statusWord s) (pushRaises (entryRole e) (entryStart e s)) c1 s.draws
  rw [hdraws] at hlo
  rw [entryTraps_eq h] at hhi
  refine ⟨c2, ?_⟩
  change (push (entryRole e) _ (entryStart e s) >>= fun t =>
    push (entryRole e) (statusWord (setRa s.sr.ra t)) t >>= fun u => .ok (entryEnd e u)) = _
  rw [hlo, ok_bind, hstatus, hhi, ok_bind, entryPushed]

/-! ### What the entry clears, and what it sets -/

theorem entryStart_sets (e : Exception) (s : State) : entryStart e s = { s with
    rptFresh := false
    targets := if s.rptFresh then s.targets.insert (s.pc, getW 15#4 s) else s.targets
    stackPending := s.stackPending && decide (e ≠ .stackError)
    arithPending := s.arithPending && decide (e ≠ .arithmeticError)
    sr := { s.sr with ra := false } } := by
  rw [entryStart, holdTarget_eq]
  cases e <;> simp [clearPending, setRa] <;> rfl

theorem entryPushed_sets (e : Exception) (s : State) (c : Access) : entryPushed e s c = { s with
    w := (entryPushed e s c).w, ram := (entryPushed e s c).ram, cur := c
    rptFresh := false
    targets := if s.rptFresh then s.targets.insert (s.pc, getW 15#4 s) else s.targets
    stackPending := (s.stackPending && decide (e ≠ .stackError)) || entryTraps e s
    arithPending := s.arithPending && decide (e ≠ .arithmeticError)
    sr := { s.sr with ra := false } } := by
  rw [entryPushed, entryStart_sets]; rfl

theorem entryDisi_le (s : State) : (entryDisi s).disicnt.toNat ≤ s.disicnt.toNat := by
  unfold entryDisi
  split
  · exact le_rfl
  · have hdrawn : (drawBelow (s.disicnt.toNat + 1) s).1 < s.disicnt.toNat + 1 :=
      Nat.mod_lt _ (Nat.succ_pos _)
    change (BitVec.ofNat 14 (drawBelow (s.disicnt.toNat + 1) s).1).toNat ≤ _
    rw [BitVec.toNat_ofNat]
    exact (Nat.mod_le _ _).trans (Nat.le_of_lt_succ hdrawn)

theorem entryEnd_sets (e : Exception) (t : State) :
    (entryEnd e t).pc = vectorOf e t ∧ (entryEnd e t).edt = ageEdt t.edt
      ∧ (entryEnd e t).sr = (enterLevel e t).sr ∧ (entryEnd e t).corcon = (enterLevel e t).corcon
      ∧ (entryEnd e t).disicnt.toNat ≤ t.disicnt.toNat := by
  have hdisi := entryDisi_le (setPc (vectorOf e (enterLevel e t)) (enterLevel e t))
  simp only [entryEnd]
  rw [entryDisi_eq]
  cases e <;> exact ⟨rfl, rfl, rfl, rfl, hdisi⟩

theorem stacked_entryPushed {s t : State} {e : Exception} {c : Access} (h : PushTwoStores s)
    (hw : t.w = (entryPushed e s c).w) (hram : t.ram = (entryPushed e s c).ram)
    (hpsv : t.corcon.psv = s.corcon.psv) (hdev : t.dev = s.dev) :
    StackedTwo (s.pc.extractLsb' 0 16) (statusWord s) s t := by
  refine h.stacked (hw.trans ?_) (hram.trans ?_) hpsv hdev
  all_goals rw [entryPushed, entryStart_eq]; rfl

/-- Settles O58: the two pushes lie between what an entry clears and what it sets, and change the stack and the
request for StackError alone. -/
theorem exception_entry : Obligations.exception_entry := by
  intro e s hstorage
  have hstores : PushTwoStores s := (entryStorage_iff s).mp hstorage
  obtain ⟨c, hentry⟩ := takeException_stored hstores e
  have hpushed := entryPushed_sets e s c
  have hstacked (t : State) := stacked_entryPushed (t := t) (e := e) (c := c) hstores
  generalize entryPushed e s c = p at hentry hpushed hstacked
  obtain ⟨hpc, hedt, hsr, hcorcon, hdisi⟩ := entryEnd_sets e p
  have hend := entryEnd_eq e p
  rw [hedt] at hend
  generalize entryEnd e p = t at *
  refine ⟨t, hentry, hstacked t ?w ?ram ?psv ?dev, ?frame, ?disi, ?targets, ?level⟩
  case disi => rw [hpushed] at hdisi; exact hdisi
  case level =>
    rw [hpc, cpuLevel, hsr, hcorcon, hpushed]
    cases e with
    | stackError => exact ⟨rfl, rfl⟩
    | arithmeticError => exact ⟨rfl, rfl⟩
    | interrupt q => exact ⟨rfl, rfl, rfl⟩
  case w | ram => rw [hend]
  all_goals rw [hend, hpushed]

end Sys2Proof.Machine
